-- ==== Sys2Proof/Word.lean ====
section
/-! DEFINITION. The bit-vector types the block's registers, ports and command fields are made of.

The spec's widths W_A, W_T, W_TH are parameters (R8). A register whose width is a parameter is kept in a container of
the parameter's largest legal width; `Config.lean` holds the actual widths. -/

namespace Sys2Proof

/-- A command word, an event word, or `rdata`: 32 bits (R39, R80, R95). -/
abbrev Word := BitVec 32

/-- One byte of a serialised command word (R62). -/
abbrev Byte := BitVec 8

/-- A sampled bus address or a port-address register: W_A ≤ 16 bits (R8). -/
abbrev Addr := BitVec 16

/-- A time in milliseconds: W_T ≤ 32 bits (R8). -/
abbrev Time := BitVec 32

/-- An activity threshold: W_TH ≤ 16 bits (R8). -/
abbrev Threshold := BitVec 16

/-- An activity counter: W_C = W_TH + 1 ≤ 17 bits (R27). -/
abbrev Count := BitVec 17

/-- The information field of FLT, the register FINFO, the argument of a LOG event: 16 bits (R35, R81, R95). -/
abbrev Info := BitVec 16

/-- A register index of RDS: 8 bits (R40, R81). -/
abbrev Index := BitVec 8

end Sys2Proof
end

