-- ==== Sys2Proof/Config.lean ====
section
/-! DEFINITION. What an implementation of the block fixes: its width parameters (R8) and its configuration record (R21).

Both are plain data that State holds, so that every statement is about every legal choice of them (log 3). -/

namespace Sys2Proof

/-- The width parameters of R8, each with its constraint. -/
structure Params where
  /-- W_A: width of a sampled bus address and of the two port-address registers. -/
  wA : Nat
  /-- W_T: width of `in.now`, of every time register and of every time configuration. -/
  wT : Nat
  /-- W_TH: width of the threshold configuration. -/
  wTH : Nat
  wA_legal : 1 ≤ wA ∧ wA ≤ 16
  wT_legal : 8 ≤ wT ∧ wT ≤ 32
  wTH_legal : 1 ≤ wTH ∧ wTH ≤ 16
deriving DecidableEq, Repr

/-- W_C, the width of an activity counter: W_TH + 1 (R8, R27). -/
def Params.wC (p : Params) : Nat := p.wTH + 1

/-- The reference values of R8. -/
def Params.reference : Params where
  wA := 16
  wT := 32
  wTH := 16
  wA_legal := by decide
  wT_legal := by decide
  wTH_legal := by decide

/-- The configuration record `cfg` (R21). -/
structure Cfg where
  /-- `cfg.DATA_PORT` -/
  dataPort : Addr
  /-- `cfg.STATUS_PORT` -/
  statusPort : Addr
  /-- `cfg.THRESHOLD` -/
  threshold : Threshold
  /-- `cfg.TIMEOUT`, in ms -/
  timeout : Time
  /-- `cfg.MIN_DELAY`, in ms -/
  minDelay : Time
deriving DecidableEq, Repr

/-- Configuration E of 95_test_vectors.md section 0, the record `State.reset` holds.
DESIGN CHOICE (log 5), unsafe: the spec gives no default configuration, and calls these numbers examples only.
No statement rests on them. -/
def Cfg.exampleE : Cfg where
  dataPort := 0x0300
  statusPort := 0x0301
  threshold := 2
  timeout := 50
  minDelay := 100

end Sys2Proof
end

