-- ==== Sys2Proof/Syntax.lean ====
section
/-! DEFINITION. The block's commands as syntax: one constructor for each row of spec/opcode_table.json (R82). -/

namespace Sys2Proof

/-- The strobe kind `K` of a bus sample (R81, R89): 0 is READ (IOR#), 1 is WRITE (IOW#). -/
inductive Strobe where
  | read
  | write
deriving DecidableEq, Repr

/-- A bus sample as a command word carries it: the strobe kind and the address (R81). Its timestamp is the step's
`in.now`, not a field (R113). -/
structure BusSample where
  kind : Strobe
  addr : Addr
deriving DecidableEq, Repr

/-- The legal command words, with their operands decoded (R82 to R89). -/
inductive Instr where
  /-- `nop`: no operation (R83, R182). -/
  | nop
  /-- `cls`: one classify cycle without a sample, V = 0 (R84, R110). -/
  | cls
  /-- `cls.s K, ADDR`: one classify cycle with a sample, V = 1 (R84, R110). -/
  | clsS (kind : Strobe) (addr : Addr)
  /-- `asm B`: one state-machine step with a busy level from the host (R85, R140). -/
  | asm (b : Bool)
  /-- `tick`: one control-loop tick without a sample (R84, R180). -/
  | tick
  /-- `tick.s K, ADDR`: one control-loop tick with a sample (R84, R180). -/
  | tickS (kind : Strobe) (addr : Addr)
  /-- `shdn`: shutdown on the external stop signal (R86, R183). -/
  | shdn
  /-- `flt INFO`: a runtime exception in the control loop (R87, R184). -/
  | flt (info : Info)
  /-- `rds IDX`: read a register by index (R88, R187). -/
  | rds (idx : Index)
deriving DecidableEq, Repr

end Sys2Proof
end

