-- ==== Sys2Proof/WellFormed.lean ====
section
/-! DEFINITION. Which instructions a block of address width W_A can be given. The field types bound every operand but
one: the address of a sample must fit W_A bits (R84, R90). -/

namespace Sys2Proof

/-- The address fits `wA` bits, so that `ADDR[15:W_A]` is 0 (R84). -/
def addrFits (wA : Nat) (a : Addr) : Bool := decide (a.toNat < 2 ^ wA)

/-- An instruction has an encoding that a block of address width `wA` takes as legal. -/
def Instr.wf (wA : Nat) : Instr → Bool
  | .nop => true
  | .cls => true
  | .clsS _ a => addrFits wA a
  | .asm _ => true
  | .tick => true
  | .tickS _ a => addrFits wA a
  | .shdn => true
  | .flt _ => true
  | .rds _ => true

end Sys2Proof
end

