-- ==== Sys2Proof/Decode.lean ====
section
/-! DEFINITION. Command words: byte order (R62), fields (R81), legality (R90), the decoder, the encoder and the opcode
table. The decoder is total: a word that is no instruction is rejected by a reason with a name, and the block then runs
it as an illegal word (R185). -/

namespace Sys2Proof

/-! ## Bytes (R62) -/

/-- Byte `n` of a word, byte 0 being bits 7 to 0 (R62). -/
def byteOf (n : Nat) (w : Word) : Byte := w.extractLsb' (8 * n) 8

/-- A word as the four bytes a narrower interface carries, least significant byte first (R62). -/
def bytesOfWord (w : Word) : List Byte := [byteOf 0 w, byteOf 1 w, byteOf 2 w, byteOf 3 w]

/-- The word whose bytes 0 to 3 are the four given bytes (R62). -/
def wordOfBytes (b0 b1 b2 b3 : Byte) : Word := b3 ++ b2 ++ b1 ++ b0

/-- Take one command word from the front of a byte stream; none until all four bytes are present (R62). -/
def takeCommand : List Byte → Option (Word × List Byte)
  | b0 :: b1 :: b2 :: b3 :: rest => some (wordOfBytes b0 b1 b2 b3, rest)
  | _ => none

/-! ## Fields (R81) -/

/-- `OP`, bits 31 to 28. -/
def opField (w : Word) : BitVec 4 := w.extractLsb' 28 4

/-- `V` of CLS and TICK, bit 27. -/
def vField (w : Word) : Bool := w.getLsbD 27

/-- `B` of ASM, bit 27. -/
def bField (w : Word) : Bool := w.getLsbD 27

/-- `K` of CLS and TICK with V = 1, bit 26: 0 is READ, 1 is WRITE (R89). -/
def kField (w : Word) : Strobe := if w.getLsbD 26 then .write else .read

/-- `ADDR` of CLS and TICK with V = 1, bits 15 to 0, unsigned (R89). -/
def addrField (w : Word) : Addr := w.extractLsb' 0 16

/-- `INFO` of FLT, bits 15 to 0. -/
def infoField (w : Word) : Info := w.extractLsb' 0 16

/-- `IDX` of RDS, bits 7 to 0. -/
def idxField (w : Word) : Index := w.extractLsb' 0 8

/-! ## Operations (R82) -/

/-- The operations of R82. -/
inductive Op where
  | nop
  | cls
  | asm
  | tick
  | shdn
  | flt
  | rds
deriving DecidableEq, Repr

/-- The operation map of R82; the codes 0x7 to 0xF are reserved. -/
def opOf (c : BitVec 4) : Option Op :=
  if c = 0x0 then some .nop
  else if c = 0x1 then some .cls
  else if c = 0x2 then some .asm
  else if c = 0x3 then some .tick
  else if c = 0x4 then some .shdn
  else if c = 0x5 then some .flt
  else if c = 0x6 then some .rds
  else none

/-! ## Legality, as R90 writes it -/

/-- `legal(cmd)` of R90, for a block of address width `wA`. -/
def legal (wA : Nat) (cmd : Word) : Bool :=
  match (cmd.extractLsb 31 28).toNat with
  | 0x0 => cmd.extractLsb 27 0 == 0
  | 0x1 | 0x3 =>
    if cmd.getLsbD 27 == false then cmd.extractLsb 26 0 == 0
    else cmd.extractLsb 25 16 == 0 && (wA == 16 || (cmd.extractLsb 15 0) >>> wA == 0)
  | 0x2 => cmd.extractLsb 26 0 == 0
  | 0x4 => cmd.extractLsb 27 0 == 0
  | 0x5 => cmd.extractLsb 27 16 == 0
  | 0x6 => cmd.extractLsb 27 8 == 0
  | _ => false

/-! ## The decoder -/

/-- Why a word is no instruction (R90, R91). Every reason has the one effect of R185 in the machine. -/
inductive DecodeError where
  /-- OP is one of the reserved codes 0x7 to 0xF. -/
  | reservedOp (op : BitVec 4)
  /-- A reserved bit of a legal operation is not 0. -/
  | reservedBits (op : Op)
  /-- ADDR has a bit set at or above W_A. -/
  | addressTooWide (op : Op)
deriving DecidableEq, Repr

/-- What the decoder answers for a word. -/
inductive Decoded where
  | instr (i : Instr)
  | illegal (e : DecodeError)
deriving DecidableEq, Repr

/-- The instruction of a decoded word, if it is one. -/
def Decoded.toOption : Decoded → Option Instr
  | .instr i => some i
  | .illegal _ => none

/-- The two classify operations share one shape (R84): V = 0 with all other bits 0, or V = 1 with K and ADDR. -/
def decodeClassify (wA : Nat) (op : Op) (bare : Instr) (sampled : Strobe → Addr → Instr) (w : Word) : Decoded :=
  if vField w then
    if w.extractLsb' 16 10 ≠ 0 then .illegal (.reservedBits op)
    else if addrFits wA (addrField w) then .instr (sampled (kField w) (addrField w))
    else .illegal (.addressTooWide op)
  else if w.extractLsb' 0 27 = 0 then .instr bare
  else .illegal (.reservedBits op)

/-- The decoder of a block of address width `wA` (R82 to R91). -/
def decode (wA : Nat) (w : Word) : Decoded :=
  match opOf (opField w) with
  | none => .illegal (.reservedOp (opField w))
  | some .nop => if w.extractLsb' 0 28 = 0 then .instr .nop else .illegal (.reservedBits .nop)
  | some .cls => decodeClassify wA .cls .cls .clsS w
  | some .asm => if w.extractLsb' 0 27 = 0 then .instr (.asm (bField w)) else .illegal (.reservedBits .asm)
  | some .tick => decodeClassify wA .tick .tick .tickS w
  | some .shdn => if w.extractLsb' 0 28 = 0 then .instr .shdn else .illegal (.reservedBits .shdn)
  | some .flt => if w.extractLsb' 16 12 = 0 then .instr (.flt (infoField w)) else .illegal (.reservedBits .flt)
  | some .rds => if w.extractLsb' 8 20 = 0 then .instr (.rds (idxField w)) else .illegal (.reservedBits .rds)

/-! ## The encoder -/

/-- The bit `K` of a strobe kind (R89). -/
def Strobe.bit : Strobe → BitVec 1
  | .read => 0
  | .write => 1

/-- The word of an instruction, from the bit patterns of R83 to R88. -/
def encode : Instr → Word
  | .nop => 0x00000000
  | .cls => 0x10000000
  | .clsS k a => 0b0001#4 ++ 1#1 ++ k.bit ++ 0#10 ++ a
  | .asm b => 0b0010#4 ++ BitVec.ofBool b ++ 0#27
  | .tick => 0x30000000
  | .tickS k a => 0b0011#4 ++ 1#1 ++ k.bit ++ 0#10 ++ a
  | .shdn => 0x40000000
  | .flt info => 0b0101#4 ++ 0#12 ++ info
  | .rds idx => 0b0110#4 ++ 0#20 ++ idx

/-! ## The opcode table -/

/-- A row of spec/opcode_table.json: a word is of this row when its bits under `mask` are those of `pattern`. -/
structure OpRow where
  mnemonic : String
  mask : Word
  pattern : Word
deriving DecidableEq, Repr

/-- A word is of the row. -/
def OpRow.covers (r : OpRow) (w : Word) : Bool := w &&& r.mask == r.pattern

/-- The row of spec/opcode_table.json an instruction belongs to. -/
def Instr.row : Instr → OpRow
  | .nop => { mnemonic := "nop", mask := 0xFFFFFFFF, pattern := 0x00000000 }
  | .cls => { mnemonic := "cls", mask := 0xFFFFFFFF, pattern := 0x10000000 }
  | .clsS _ _ => { mnemonic := "cls.s", mask := 0xFBFF0000, pattern := 0x18000000 }
  | .asm _ => { mnemonic := "asm", mask := 0xF7FFFFFF, pattern := 0x20000000 }
  | .tick => { mnemonic := "tick", mask := 0xFFFFFFFF, pattern := 0x30000000 }
  | .tickS _ _ => { mnemonic := "tick.s", mask := 0xFBFF0000, pattern := 0x38000000 }
  | .shdn => { mnemonic := "shdn", mask := 0xFFFFFFFF, pattern := 0x40000000 }
  | .flt _ => { mnemonic := "flt", mask := 0xFFFF0000, pattern := 0x50000000 }
  | .rds _ => { mnemonic := "rds", mask := 0xFFFFFF00, pattern := 0x60000000 }

/-- The nine rows of spec/opcode_table.json, in its order. -/
def opcodeTable : List OpRow :=
  [Instr.nop, .cls, .clsS .read 0, .asm false, .tick, .tickS .read 0, .shdn, .flt 0, .rds 0].map Instr.row

/-! ## The host's view of the decoder -/

/-- The command word whose low `nbits` bits are those of `w` and whose other bits are 0. -/
def tableWord (nbits w : Nat) : Word := BitVec.ofNat 32 (w % 2 ^ nbits)

/-- The instruction the decoder reads from a table word laid out as four bytes, least significant first (R62), for the
reference address width (R8). -/
def decodeTableWord (nbits w : Nat) : Option Instr :=
  match takeCommand (bytesOfWord (tableWord nbits w)) with
  | some (cmd, _) => (decode Params.reference.wA cmd).toOption
  | none => none

end Sys2Proof
end

