-- ==== Sys2Proof/Machine/State.lean ====
section
/-! DEFINITION. The block's state as plain data: the registers of R20, the latched configuration (R9, R21, R241), the
width parameters (R8), the outputs of the last step (R38, R39), and the inputs the host presents (R7, R37, R240). -/

namespace Sys2Proof.Machine

/-- The block has no faults: "The block has no trap mechanism. No condition stops a step part-way or redirects
control" (R210). No constructor; nothing raises one. -/
inductive Fault
deriving DecidableEq, Repr

/-- The steps the model gives no meaning to. -/
inductive Refusal where
  /-- Raised by `exec` for an instruction whose meaning is not written; no arm uses it. Safe: the model stops. -/
  | notModelled (mnemonic : String)
  /-- Raised by `cycle` for a step without reset before the first reset: "Such a step is refused: the model has no
  transition for it" (R242). Safe: the model stops. -/
  | beforeFirstReset
  /-- Raised by `step` when the host has presented nothing: the block executes one step per command word (R7), so
  without one there is no step. Safe: the model stops. DESIGN CHOICE (log 2). -/
  | noCommandPresented
deriving DecidableEq, Repr

/-- PlaybackState, the values of register STATE (R23). The code 0b11 cannot be written down (log 9). -/
inductive PlaybackState where
  | spinup
  | idle
  | access
deriving DecidableEq, Repr

/-- The two looping playback states, between which the transitions of R146 run. -/
inductive LoopState where
  | idle
  | access
deriving DecidableEq, Repr

/-- The samples SPINUP_S, IDLE_S, ACCESS_S (R38, R94). -/
inductive Sample where
  | spinup
  | idle
  | access
deriving DecidableEq, Repr

/-- The log codes of R211. -/
inductive LogCode where
  /-- 1, `SAMPLE_UNAVAILABLE` -/
  | sampleUnavailable
  /-- 2, `CONFIG_INVALID` -/
  | configInvalid
  /-- 3, `ILLEGAL_COMMAND` -/
  | illegalCommand
  /-- 4, `RUNTIME_FAULT` -/
  | runtimeFault
deriving DecidableEq, Repr

/-- The output events of R38. -/
inductive Event where
  /-- `STOP`: the sink stops. -/
  | stop
  /-- `PLAY(s, loop)`: the sink plays sample `s`. -/
  | play (s : Sample) (loop : Bool)
  /-- `MUTE(b)`: the amplifier is muted (1) or unmuted (0). -/
  | mute (b : Bool)
  /-- `LOG(code, arg)`. -/
  | log (code : LogCode) (arg : Info)
deriving DecidableEq, Repr

/-- The side inputs of a step (R37). -/
structure SideInputs where
  /-- `in.now`, in ms -/
  now : Time
  /-- `in.snk_playing` -/
  sinkPlaying : Bool
  /-- `in.lib_ok(SPINUP_S)` -/
  okSpinup : Bool
  /-- `in.lib_ok(IDLE_S)` -/
  okIdle : Bool
  /-- `in.lib_ok(ACCESS_S)` -/
  okAccess : Bool
deriving DecidableEq, Repr

/-- The side inputs the syntax of R92 takes for a first step that names none: now=0 playing=0 ok=111. -/
def SideInputs.initial : SideInputs where
  now := 0
  sinkPlaying := false
  okSpinup := true
  okIdle := true
  okAccess := true

/-- What the host presents to the block for one step. -/
structure PortInput where
  /-- The reset input is asserted in this step (R240). -/
  reset : Bool
  /-- The configuration inputs (R244), sampled only when reset is asserted (R241). -/
  cfgPins : Cfg
  /-- The command word (R7, R64). -/
  cmd : Word
  /-- The side inputs (R37). -/
  side : SideInputs
deriving DecidableEq, Repr

/-- The machine's state. The first thirteen fields are the registers of R20, under their names there. -/
structure State where
  state : PlaybackState
  busy : Bool
  dcnt : Count
  scnt : Count
  last : Time
  tchg : Time
  hold : Bool
  spin : Bool
  muted : Bool
  halted : Bool
  faulted : Bool
  finfo : Info
  illegal : Bool
  /-- The configuration record latched at the last reset (R241; log 18). -/
  cfg : Cfg
  /-- The width parameters of this block (R8). No step writes them. -/
  params : Params
  /-- The ordered event list of the current step, or of the last one (R38; log 10). -/
  events : List Event
  /-- The output `rdata` (R39). -/
  rdata : Word
  /-- The side inputs as sampled at the start of the current step (R37; log 6). -/
  side : SideInputs
  /-- What the host presents, oldest first: one entry a step (log 1). -/
  pending : List PortInput
  /-- Reset has been asserted at least once (R44, R242). -/
  initialised : Bool
deriving DecidableEq, Repr

/-- The state right after a reset that latched configuration `c`, in a block of widths `p`: every register at its value
in R20 and R41, no event, `rdata` 0. -/
def State.afterReset (p : Params) (c : Cfg) (side : SideInputs) (pending : List PortInput) : State where
  state := .spinup
  busy := false
  dcnt := 0
  scnt := 0
  last := 0
  tchg := 0
  hold := false
  spin := false
  muted := true
  halted := false
  faulted := false
  finfo := 0
  illegal := false
  cfg := c
  params := p
  events := []
  rdata := 0
  side := side
  pending := pending
  initialised := true

/-- The machine right after reset (R41), with the reference widths of R8, nothing presented yet, and configuration E.
DESIGN CHOICE (log 5, log 6): the spec gives the registers' reset values but no default configuration. -/
def State.reset : State := State.afterReset Params.reference Cfg.exampleE SideInputs.initial []

end Sys2Proof.Machine
end

