-- ==== Sys2Proof/Machine/Operands.lean ====
section
/-! DEFINITION. How a step reads its inputs and registers: port widths (R8), side inputs (R37), sample codes (R94), time
differences (R11), and the register read of RDS (R40). -/

namespace Sys2Proof.Machine

/-- The low `n` bits of a value; the others are 0. -/
def lowBits (n : Nat) {w : Nat} (v : BitVec w) : BitVec w := BitVec.ofNat w (v.toNat % 2 ^ n)

/-- A one-bit register as the word RDS reads. -/
def bitWord (b : Bool) : Word := if b then 1 else 0

/-! ## Port widths (R8) -/

/-- The side inputs as a block of widths `p` samples them: `in.now` has W_T wires (R37;
DEDUCED, log 4). -/
def sampleSide (p : Params) (x : SideInputs) : SideInputs := { x with now := lowBits p.wT x.now }

/-- The configuration inputs as a block of widths `p` latches them (R21, R241; DEDUCED, log 4). -/
def latchCfg (p : Params) (c : Cfg) : Cfg where
  dataPort := lowBits p.wA c.dataPort
  statusPort := lowBits p.wA c.statusPort
  threshold := lowBits p.wTH c.threshold
  timeout := lowBits p.wT c.timeout
  minDelay := lowBits p.wT c.minDelay

/-! ## Samples (R37, R94) -/

/-- `in.lib_ok(s)`. -/
def libOk (x : SideInputs) : Sample → Bool
  | .spinup => x.okSpinup
  | .idle => x.okIdle
  | .access => x.okAccess

/-- The sample code of R94, as the argument of a LOG event (R211). -/
def sampleArg : Sample → Info
  | .spinup => 0
  | .idle => 1
  | .access => 2

/-- `sample(st)` of R94, for the two looping states it is defined on. -/
def loopSample : LoopState → Sample
  | .idle => .idle
  | .access => .access

/-- The value of STATE for a looping state. -/
def loopPlayback : LoopState → PlaybackState
  | .idle => .idle
  | .access => .access

/-- `want`, the target state for a busy level (R145). -/
def wanted (b : Bool) : LoopState := if b then .access else .idle

/-! ## Time (R11) -/

/-- `(in.now - start) mod 2^W_T`, the wrap-around time since `start`. -/
def elapsed (s : State) (start : Time) : Time := lowBits s.params.wT (s.side.now - start)

/-- A counter incremented, in its W_C bits (R27). In every state a run reaches the sum is exact (log 15). -/
def countUp (s : State) (c : Count) : Count := lowBits s.params.wC (c + 1)

/-! ## Registers as RDS reads them (R40) -/

/-- The code of STATE (R23). -/
def stateCode : PlaybackState → BitVec 2
  | .spinup => 0b00
  | .idle => 0b01
  | .access => 0b10

/-- CFG_WARN: bit 0 for a zero threshold, bit 1 for a zero timeout (R22). -/
def cfgWarn (c : Cfg) : BitVec 2 :=
  BitVec.ofBool (decide (c.timeout = 0)) ++ BitVec.ofBool (decide (c.threshold = 0))

/-- `rd(IDX)`: the zero-extended value the table of R40 gives, and 0 for every index not in it (R187). -/
def readRegister (s : State) (idx : Index) : Word :=
  match idx.toNat with
  | 0x00 => (stateCode s.state).setWidth 32
  | 0x01 => bitWord s.busy
  | 0x02 => s.dcnt.setWidth 32
  | 0x03 => s.scnt.setWidth 32
  | 0x04 => s.last
  | 0x05 => s.tchg
  | 0x06 => bitWord s.hold
  | 0x07 => bitWord s.spin
  | 0x08 => bitWord s.muted
  | 0x09 => bitWord s.halted
  | 0x0A => bitWord s.faulted
  | 0x0B => s.finfo.setWidth 32
  | 0x0C => bitWord s.illegal
  | 0x0D => (cfgWarn s.cfg).setWidth 32
  | 0x10 => s.cfg.dataPort.setWidth 32
  | 0x11 => s.cfg.statusPort.setWidth 32
  | 0x12 => s.cfg.threshold.setWidth 32
  | 0x13 => s.cfg.timeout
  | 0x14 => s.cfg.minDelay
  | _ => 0

end Sys2Proof.Machine
end

