-- ==== Sys2Proof/Machine/Flags.lean ====
section
/-! DEFINITION. The conditions a step computes from registers, configuration and inputs: the timeout (R112), a counter's
firing (R115), the hold guard (R144), and a due transition (R145). -/

namespace Sys2Proof.Machine

/-- The gap since LAST exceeds `cfg.TIMEOUT`, strictly (R112). -/
def timeoutExceeded (s : State) : Bool := decide (s.cfg.timeout < elapsed s s.last)

/-- A counter exceeds `cfg.THRESHOLD`, strictly, both sides zero-extended (R12, R115). -/
def exceedsThreshold (s : State) (c : Count) : Bool := decide (s.cfg.threshold.setWidth 17 < c)

/-- At least `cfg.MIN_DELAY` ms have passed since TCHG (R144). -/
def delayElapsed (s : State) : Bool := decide (s.cfg.minDelay ≤ elapsed s s.tchg)

/-- A transition to `want` is due: it is not the current looping state and no hold is armed (R145). -/
def transitionDue (cur want : LoopState) (s : State) : Bool := decide (want ≠ cur) && !s.hold

end Sys2Proof.Machine
end

