-- ==== Sys2Proof/Machine/Ops.lean ====
section
/-! DEFINITION. The operations the commands share: emitting events (R11, R38), commanding the mute control (R32), asking
for a sample (R141, R143, R148), the HALTED filter (R186), entering the halted state, the block's only trap-like entry
(R216), leaving it by reset (R217, R240), an illegal word (R185), and the start of a step (R37, R188). -/

namespace Sys2Proof.Machine

/-- `emit E`: append an event to the step's ordered list (R11). -/
def State.emit (s : State) (e : Event) : State := { s with events := s.events ++ [e] }

/-- `MUTED <- b; emit MUTE(b)`: every write to MUTED goes with an event of the same value (R32). -/
def State.commandMute (s : State) (b : Bool) : State := { s with muted := b }.emit (.mute b)

/-- `LOG(SAMPLE_UNAVAILABLE, s)` (R211). -/
def unavailable (smp : Sample) : Event := .log .sampleUnavailable (sampleArg smp)

/-- Emit `PLAY(smp, loop)` if the library has the sample, and otherwise log that it is unavailable (R141, R143, R148). -/
def State.playOrLog (s : State) (smp : Sample) (loop : Bool) : State :=
  if libOk s.side smp then s.emit (.play smp loop) else s.emit (unavailable smp)

/-- The HALTED filter: while HALTED is 1 a command has no effect (R186; log 19). -/
def whenRunning (effect : State → State) (s : State) : State := if s.halted then s else effect s

/-- Entry to the halted state, shared by SHDN and FLT: `STOP`, then `MUTE(1)`, then HALTED is 1; nothing is saved and
every other register keeps its value (R183, R184, R216). -/
def enterHalt (s : State) : State := { (s.emit .stop).commandMute true with halted := true }

/-- The effect of an illegal word on a running block: ILLEGAL is 1 and `LOG(ILLEGAL_COMMAND, OP)` is emitted; on a
halted block there is none (R185, R186). -/
def illegalWord (cmd : Word) (s : State) : State :=
  whenRunning (fun s => { s with illegal := true }.emit (.log .illegalCommand ((opField cmd).setWidth 16))) s

/-- The start of every step without reset: the side inputs are sampled (R37), the event list is empty (R38), and
`rdata <- 0` (R188). -/
def beginStep (x : PortInput) (s : State) : State :=
  { s with side := sampleSide s.params x.side, events := [], rdata := 0 }

/-- A step with reset asserted, the one way out of the halted state (R217): the configuration inputs are latched, every
register takes its value of R41, `rdata` is 0, no event is emitted, and the command word is not executed (R240; log 11). -/
def resetBlock (x : PortInput) (s : State) : State where
  state := .spinup
  busy := false
  dcnt := 0
  scnt := 0
  last := 0
  tchg := 0
  hold := false
  spin := false
  muted := true
  halted := false
  faulted := false
  finfo := 0
  illegal := false
  cfg := latchCfg s.params x.cfgPins
  params := s.params
  events := []
  rdata := 0
  side := sampleSide s.params x.side
  pending := s.pending
  initialised := true

end Sys2Proof.Machine
end

