-- ==== Sys2Proof/Machine/Audio.lean ====
section
/-! DEFINITION. The AudioStateMachine: one state-machine step (R149) and the command `asm` (R140). -/

namespace Sys2Proof.Machine

/-- The configuration warning of the spin-up start: `LOG(CONFIG_INVALID, CFG_WARN)` if CFG_WARN is not 0 (R141, R22). -/
def warnConfig (s : State) : State :=
  if cfgWarn s.cfg ≠ 0 then s.emit (.log .configInvalid ((cfgWarn s.cfg).setWidth 16)) else s

/-- The spin-up start: warn, unmute, play the spin-up sample once, and set SPIN (R141). -/
def spinUpStart (s : State) : State :=
  { ((warnConfig s).commandMute false).playOrLog .spinup false with spin := true }

/-- SPINUP → IDLE, once the spin-up sample has finished: no STOP, and the hold is not armed (R143). -/
def spinUpDone (s : State) : State := { s with state := .idle }.playOrLog .idle true

/-- The guard test: an armed hold is cleared once `cfg.MIN_DELAY` has elapsed (R144). -/
def guardTest (s : State) : State := if s.hold && delayElapsed s then { s with hold := false } else s

/-- A transition between IDLE and ACCESS: stop, play the target's sample in a loop, and arm the hold (R146). -/
def takeTransition (want : LoopState) (s : State) : State :=
  { (s.emit .stop).emit (.play (loopSample want) true) with
    state := loopPlayback want
    tchg := s.side.now
    hold := true }

/-- Restart on stop: if the sink has stopped, ask again for the current state's sample (R148). -/
def restartOnStop (cur : LoopState) (s : State) : State :=
  if s.side.sinkPlaying then s else s.playOrLog (loopSample cur) true

/-- What follows the guard test: a due transition whose sample is available is taken (R146); one whose sample is not is
logged and leaves the state (R147); where none was taken, restart on stop (R148). -/
def afterGuard (cur want : LoopState) (s : State) : State :=
  if transitionDue cur want s then
    if libOk s.side (loopSample want) then takeTransition want s
    else restartOnStop cur (s.emit (unavailable (loopSample want)))
  else restartOnStop cur s

/-- A step in a looping state (R144 to R148). -/
def loopStep (cur : LoopState) (b : Bool) (s : State) : State := afterGuard cur (wanted b) (guardTest s)

/-- `asm_step(b, now, playing, ok)`, one state-machine step (R149). -/
def asmStep (b : Bool) (s : State) : State :=
  match s.state with
  | .spinup =>
    if s.spin then
      if s.side.sinkPlaying then s else spinUpDone s
    else spinUpStart s
  | .idle => loopStep .idle b s
  | .access => loopStep .access b s

/-- `asm B` (R140): a state-machine step with the host's busy level. -/
def execAsm (b : Bool) (s : State) : Host.Outcome State Fault Refusal := .next (whenRunning (asmStep b) s)

end Sys2Proof.Machine
end

