-- ==== Sys2Proof/Machine/Classifier.lean ====
section
/-! DEFINITION. The ActivityClassifier: one classify cycle (R111) and the commands `cls` and `cls.s` (R110). -/

namespace Sys2Proof.Machine

/-- Step 1: past the timeout, both counters are reset and LAST is the current time, whether or not a sample arrived
(R112). -/
def timeoutReset (s : State) : State :=
  if timeoutExceeded s then { s with dcnt := 0, scnt := 0, last := s.side.now } else s

/-- Step 2: a sample at the data port counts into DCNT, otherwise one at the status port into SCNT, and LAST is the
current time; any other sample is discarded (R113). The strobe kind is not read (R114). -/
def countSample (v : Option BusSample) (s : State) : State :=
  match v with
  | none => s
  | some x =>
    if x.addr = s.cfg.dataPort then { s with dcnt := countUp s s.dcnt, last := s.side.now }
    else if x.addr = s.cfg.statusPort then { s with scnt := countUp s s.scnt, last := s.side.now }
    else s

/-- Steps 3 and 4: a counter above the threshold fires and is reset, and BUSY is 1 exactly if one fired (R115, R116,
R117). -/
def fireAndPublish (s : State) : State :=
  { s with
    dcnt := if exceedsThreshold s s.dcnt then 0 else s.dcnt
    scnt := if exceedsThreshold s s.scnt then 0 else s.scnt
    busy := exceedsThreshold s s.dcnt || exceedsThreshold s s.scnt }

/-- `classify(v, a, now)`, one classify cycle (R111). -/
def classify (v : Option BusSample) (s : State) : State := fireAndPublish (countSample v (timeoutReset s))

/-- `cls` (R110): a classify cycle without a sample. -/
def execCls (s : State) : Host.Outcome State Fault Refusal := .next (whenRunning (classify none) s)

/-- `cls.s K, ADDR` (R110): a classify cycle with a sample (log 12). -/
def execClsS (k : Strobe) (a : Addr) (s : State) : Host.Outcome State Fault Refusal :=
  .next (whenRunning (classify (some { kind := k, addr := a })) s)

end Sys2Proof.Machine
end

