-- ==== Sys2Proof/Machine/System.lean ====
section
/-! DEFINITION. The control-loop, shutdown, fault and register-read commands (42_system.md). -/

namespace Sys2Proof.Machine

/-- `tick(v, a, in)` (R180): classify and then the state machine driven by BUSY; in SPINUP the classify half does not run
and a sample is dropped. One step has one `in.now` for both halves. -/
def tickStep (v : Option BusSample) (s : State) : State :=
  match s.state with
  | .spinup => asmStep false s
  | .idle | .access => asmStep (classify v s).busy (classify v s)

/-- `tick` (R180). -/
def execTick (s : State) : Host.Outcome State Fault Refusal := .next (whenRunning (tickStep none) s)

/-- `tick.s K, ADDR` (R180). -/
def execTickS (k : Strobe) (a : Addr) (s : State) : Host.Outcome State Fault Refusal :=
  .next (whenRunning (tickStep (some { kind := k, addr := a })) s)

/-- `nop` (R182): no register changes and no event; it is no classify cycle. -/
def execNop (s : State) : Host.Outcome State Fault Refusal := .next s

/-- `shdn` (R183): stop, then mute, then halt. -/
def execShdn (s : State) : Host.Outcome State Fault Refusal := .next (whenRunning enterHalt s)

/-- The effect of FLT on a running block: the shutdown sequence, then FAULTED and FINFO, then the report (R184). -/
def faultShutdown (info : Info) (s : State) : State :=
  { enterHalt s with faulted := true, finfo := info }.emit (.log .runtimeFault info)

/-- `flt INFO` (R184). -/
def execFlt (info : Info) (s : State) : Host.Outcome State Fault Refusal := .next (whenRunning (faultShutdown info) s)

/-- `rds IDX` (R187): `rdata <- rd(IDX)`, in every state, halted too (R186). -/
def execRds (idx : Index) (s : State) : Host.Outcome State Fault Refusal :=
  .next { s with rdata := readRegister s idx }

end Sys2Proof.Machine
end

