-- ==== Sys2Proof/Machine/Dispatch.lean ====
section
/-! DEFINITION. One arm for each instruction: the `case` of R188. -/

namespace Sys2Proof.Machine

def exec (i : Instr) (s : State) : Host.Outcome State Fault Refusal :=
  match i with
  | .nop => Sys2Proof.Machine.execNop s
  | .cls => Sys2Proof.Machine.execCls s
  | .clsS k a => Sys2Proof.Machine.execClsS k a s
  | .asm b => Sys2Proof.Machine.execAsm b s
  | .tick => Sys2Proof.Machine.execTick s
  | .tickS k a => Sys2Proof.Machine.execTickS k a s
  | .shdn => Sys2Proof.Machine.execShdn s
  | .flt info => Sys2Proof.Machine.execFlt info s
  | .rds idx => Sys2Proof.Machine.execRds idx s

end Sys2Proof.Machine
end

