-- ==== Sys2Proof/Machine/Cycle.lean ====
section
/-! DEFINITION. One step with one presented input (R188, R215, R240, R242), and the input a command word stands for. -/

namespace Sys2Proof.Machine

/-- One step with the presented input `x`: reset beats the command (R215); before the first reset every other step is
refused (R242); an illegal word has the effect of R185; a legal word is executed (R188). The HALTED filter stands in the
effects themselves (R186). -/
def cycle (x : PortInput) (s : State) : Host.Outcome State Fault Refusal :=
  if x.reset then .next (resetBlock x s)
  else if s.initialised then
    match decode s.params.wA x.cmd with
    | .illegal _ => .next (illegalWord x.cmd (beginStep x s))
    | .instr i => exec i (beginStep x s)
  else .refused .beforeFirstReset

/-- Take the oldest presented input, if there is one (R67: steps are ordered as presented). -/
def takeInput (s : State) : Option (PortInput × State) :=
  match s.pending with
  | [] => none
  | x :: rest => some (x, { s with pending := rest })

/-- The input of a step that presents a command word without reset and keeps the side inputs of the step before, as the
syntax of R92 does for a step that names none. -/
def presentWord (s : State) (cmd : Word) : PortInput where
  reset := false
  cfgPins := s.cfg
  cmd := cmd
  side := s.side

end Sys2Proof.Machine
end

