-- ==== Sys2Proof/Machine/Step.lean ====
section
/-! DEFINITION. The block's step (R7, R188): take the input the host presents next and run one cycle with it. -/

namespace Sys2Proof.Machine

/-- One step. With nothing presented there is no step (R7; log 2). -/
def step (s : State) : Host.Outcome State Fault Refusal :=
  match takeInput s with
  | none => .refused .noCommandPresented
  | some (x, t) => cycle x t

/-- `s` with the table word presented for the very next step (log 8): the block fetches nothing (R72), the host presents
one word a step. -/
def State.withFetchWord (s : State) (nbits w : Nat) : State :=
  { s with pending := presentWord s (tableWord nbits w) :: s.pending }

end Sys2Proof.Machine
end

