-- ==== Sys2Proof/Machine/Outputs.lean ====
section
/-! DEFINITION. What the host sees of the block: the level outputs (R39) and the events as 32-bit words (R95). -/

namespace Sys2Proof.Machine

/-- The level outputs after a step (R39). -/
structure Levels where
  busyOut : Bool
  stateOut : BitVec 2
  mutedOut : Bool
  haltedOut : Bool
  rdata : Word
deriving DecidableEq, Repr

/-- `busy_out`, `state_out`, `muted_out`, `halted_out` and `rdata` (R39). -/
def outputs (s : State) : Levels where
  busyOut := s.busy
  stateOut := stateCode s.state
  mutedOut := s.muted
  haltedOut := s.halted
  rdata := s.rdata

/-- `rdata` as the bytes a narrower interface carries, in the order of the command word (R62). -/
def rdataBytes (s : State) : List Byte := bytesOfWord s.rdata

/-- The number of a log code (R211). -/
def logNumber : LogCode → BitVec 8
  | .sampleUnavailable => 1
  | .configInvalid => 2
  | .illegalCommand => 3
  | .runtimeFault => 4

/-- An event as a 32-bit word (R95). -/
def eventWord : Event → Word
  | .stop => 0x10000000
  | .play s loop => 0x20000000 ||| ((sampleArg s).setWidth 32 <<< 8) ||| bitWord loop
  | .mute b => 0x30000000 ||| bitWord b
  | .log code arg => 0x40000000 ||| ((logNumber code).setWidth 32 <<< 16) ||| arg.setWidth 32

/-- The event words of the last step, in order (R38, R95). -/
def eventWords (s : State) : List Word := s.events.map eventWord

end Sys2Proof.Machine
end

