-- ==== Sys2Proof/Machine/Assembler.lean ====
section
/-! DEFINITION. The assembler syntax the spec fixes for its programs (R92, R93): commands, pseudo-instructions, `.word`,
and the `@` lines of side inputs; first as data, then as text. What R92 leaves open about white space is log 14. -/

namespace Sys2Proof.Machine

/-! ## Source lines as data -/

/-- The pseudo-instructions of R93. -/
inductive Pseudo where
  | clsR (a : Addr)
  | clsW (a : Addr)
  | tickR (a : Addr)
  | tickW (a : Addr)
  | asmBusy
  | asmIdle
  | rdstate
deriving DecidableEq, Repr

/-- The instruction a pseudo-instruction expands to (R93). -/
def expandPseudo : Pseudo → Instr
  | .clsR a => .clsS .read a
  | .clsW a => .clsS .write a
  | .tickR a => .tickS .read a
  | .tickW a => .tickS .write a
  | .asmBusy => .asm true
  | .asmIdle => .asm false
  | .rdstate => .rds 0x00

/-- A command as the source writes it: an instruction, a pseudo-instruction, or `.word N` with any 32-bit value. -/
inductive SourceCommand where
  | core (i : Instr)
  | pseudo (p : Pseudo)
  | raw (n : Word)
deriving DecidableEq, Repr

/-- The command word a source command stands for (R92, R93). -/
def commandWord : SourceCommand → Word
  | .core i => encode i
  | .pseudo p => encode (expandPseudo p)
  | .raw n => n

/-- An `@` line: the side inputs it gives; an omitted field keeps its value from the step before (R92). -/
structure SideUpdate where
  now : Option Time
  playing : Option Bool
  ok : Option (Bool × Bool × Bool)
deriving DecidableEq, Repr

/-- No field given. -/
def SideUpdate.none : SideUpdate := { now := Option.none, playing := Option.none, ok := Option.none }

/-- The side inputs of a step, from those of the step before and the `@` line (R92). -/
def updateSide (old : SideInputs) (u : SideUpdate) : SideInputs where
  now := u.now.getD old.now
  sinkPlaying := u.playing.getD old.sinkPlaying
  okSpinup := (u.ok.map fun x => x.1).getD old.okSpinup
  okIdle := (u.ok.map fun x => x.2.1).getD old.okIdle
  okAccess := (u.ok.map fun x => x.2.2).getD old.okAccess

/-- A command with the `@` line that follows it, if any. -/
structure SourceStep where
  command : SourceCommand
  side : SideUpdate
deriving DecidableEq, Repr

/-- The inputs a program presents, one a command, from the side inputs before its first step; the configuration inputs
are held at `c`. -/
def assembleFrom (c : Cfg) (before : SideInputs) : List SourceStep → List PortInput
  | [] => []
  | l :: rest =>
    { reset := false, cfgPins := c, cmd := commandWord l.command, side := updateSide before l.side }
      :: assembleFrom c (updateSide before l.side) rest

/-- The inputs a program presents, with the first step's defaults of R92: now=0 playing=0 ok=111. -/
def assemble (c : Cfg) (lines : List SourceStep) : List PortInput := assembleFrom c SideInputs.initial lines

/-! ## Source lines as text -/

/-- Blank characters between tokens (log 14). -/
def isBlank (c : Char) : Bool := c == ' ' || c == '\t' || c == '\r'

/-- The token read so far, if there is one. -/
def flushToken (cur : List Char) : List String := if cur.isEmpty then [] else [String.ofList cur]

/-- The tokens of a line: words between blanks, with the comma and the `@` as tokens of their own. -/
def tokensFrom (cur : List Char) : List Char → List String
  | [] => flushToken cur
  | c :: cs =>
    if isBlank c then flushToken cur ++ tokensFrom [] cs
    else if c == ',' then flushToken cur ++ "," :: tokensFrom [] cs
    else if c == '@' then flushToken cur ++ "@" :: tokensFrom [] cs
    else tokensFrom (cur ++ [c]) cs

/-- The value of a hexadecimal digit. -/
def digitValue (c : Char) : Option Nat :=
  if '0' ≤ c ∧ c ≤ '9' then some (c.toNat - '0'.toNat)
  else if 'a' ≤ c ∧ c ≤ 'f' then some (c.toNat - 'a'.toNat + 10)
  else if 'A' ≤ c ∧ c ≤ 'F' then some (c.toNat - 'A'.toNat + 10)
  else none

/-- The number a run of digits of a base writes, after the value read so far. -/
def digitsFrom (base acc : Nat) : List Char → Option Nat
  | [] => some acc
  | c :: cs =>
    match digitValue c with
    | some d => if d < base then digitsFrom base (base * acc + d) cs else none
    | none => none

/-- A decimal number. -/
def decimalValue : List Char → Option Nat
  | [] => none
  | c :: cs => digitsFrom 10 0 (c :: cs)

/-- A decimal number, or a hexadecimal one after `0x` (R92). -/
def numberValue : List Char → Option Nat
  | '0' :: 'x' :: c :: cs => digitsFrom 16 0 (c :: cs)
  | cs => decimalValue cs

/-- A number operand of at most `w` bits; DESIGN CHOICE (log 14): a wider number is refused. -/
def numberOperand (w : Nat) (tok : String) : Option (BitVec w) :=
  match numberValue tok.toList with
  | some n => if n < 2 ^ w then some (BitVec.ofNat w n) else none
  | none => none

/-- The strobe kind `r` or `w` (R92). -/
def strobeOperand (tok : String) : Option Strobe :=
  if tok = "r" then some .read else if tok = "w" then some .write else none

/-- A bit, `0` or `1`. -/
def bitOperand : List Char → Option Bool
  | ['0'] => some false
  | ['1'] => some true
  | _ => none

/-- The command a line's tokens write (R92, R93). DESIGN CHOICE (log 14): anything after the operands refuses the line. -/
def parseCommand : List String → Option SourceCommand
  | ["nop"] => some (.core .nop)
  | ["cls"] => some (.core .cls)
  | ["tick"] => some (.core .tick)
  | ["shdn"] => some (.core .shdn)
  | ["asm", b] => (bitOperand b.toList).map fun v => .core (.asm v)
  | ["flt", n] => (numberOperand 16 n).map fun v => .core (.flt v)
  | ["rds", n] => (numberOperand 8 n).map fun v => .core (.rds v)
  | ["cls.s", k, ",", a] =>
    (strobeOperand k).bind fun kind => (numberOperand 16 a).map fun v => .core (.clsS kind v)
  | ["tick.s", k, ",", a] =>
    (strobeOperand k).bind fun kind => (numberOperand 16 a).map fun v => .core (.tickS kind v)
  | [".word", n] => (numberOperand 32 n).map .raw
  | ["cls.r", a] => (numberOperand 16 a).map fun v => .pseudo (.clsR v)
  | ["cls.w", a] => (numberOperand 16 a).map fun v => .pseudo (.clsW v)
  | ["tick.r", a] => (numberOperand 16 a).map fun v => .pseudo (.tickR v)
  | ["tick.w", a] => (numberOperand 16 a).map fun v => .pseudo (.tickW v)
  | ["asm.busy"] => some (.pseudo .asmBusy)
  | ["asm.idle"] => some (.pseudo .asmIdle)
  | ["rdstate"] => some (.pseudo .rdstate)
  | _ => none

/-- The name before the first `=` of a field, and what follows it. -/
def splitField : List Char → Option (List Char × List Char)
  | [] => none
  | c :: cs => if c == '=' then some ([], cs) else (splitField cs).map fun x => (c :: x.1, x.2)

/-- The fields of an `@` line: `now=T` in decimal ms, `playing=P`, `ok=SIA` (R92). DESIGN CHOICE (log 14): the fields may
stand in any order, a field given twice has its last value, and a line with no field at all is taken. -/
def parseFields (u : SideUpdate) : List String → Option SideUpdate
  | [] => some u
  | tok :: rest =>
    match splitField tok.toList with
    | none => none
    | some (name, value) =>
      if String.ofList name = "now" then
        match decimalValue value with
        | some n => if n < 2 ^ 32 then parseFields { u with now := some (BitVec.ofNat 32 n) } rest else none
        | none => none
      else if String.ofList name = "playing" then
        match bitOperand value with
        | some b => parseFields { u with playing := some b } rest
        | none => none
      else if String.ofList name = "ok" then
        match value with
        | [a, b, c] =>
          match bitOperand [a], bitOperand [b], bitOperand [c] with
          | some x, some y, some z => parseFields { u with ok := some (x, y, z) } rest
          | _, _, _ => none
        | _ => none
      else none

/-- What one source line is. -/
inductive SourceLine where
  | blank
  | command (c : SourceCommand)
  | side (u : SideUpdate)
deriving DecidableEq, Repr

/-- One source line; `;` starts a comment (R92). -/
def parseLine (line : List Char) : Option SourceLine :=
  match tokensFrom [] (line.takeWhile fun c => c != ';') with
  | [] => some .blank
  | "@" :: fields => (parseFields SideUpdate.none fields).map .side
  | toks => (parseCommand toks).map .command

/-- The lines of a text. -/
def linesFrom (cur : List Char) : List Char → List (List Char)
  | [] => [cur]
  | c :: cs => if c == '\n' then cur :: linesFrom [] cs else linesFrom (cur ++ [c]) cs

/-- Pair each command with the `@` line that follows it (R92). DESIGN CHOICE (log 14): an `@` line before the first command,
and a second one after a command, refuse the program. -/
def pairLines : List SourceLine → Option (List SourceStep)
  | [] => some []
  | .blank :: rest => pairLines rest
  | .command c :: .side u :: rest => (pairLines rest).map fun ls => { command := c, side := u } :: ls
  | .command c :: rest => (pairLines rest).map fun ls => { command := c, side := SideUpdate.none } :: ls
  | .side _ :: _ => none

/-- A program's text as steps (R92); none where a line is not of the syntax. -/
def parseProgram (text : String) : Option (List SourceStep) :=
  ((linesFrom [] text.toList).mapM parseLine).bind fun ls => pairLines (ls.filter fun l => l != .blank)

end Sys2Proof.Machine
end

