-- ==== Sys2Proof/Machine/HostDuties.lean ====
section
/-! DEFINITION. The host's duties (R250), as premises on a run: an actual run of the block together with what the host and
its collaborators did around each step. No step of the model assumes a duty (log 16). -/

namespace Sys2Proof.Machine

/-! ## What a command does for the host's loop -/

/-- The command is a classify cycle, CLS or TICK. -/
def classifies : Instr → Bool
  | .nop => false
  | .cls => true
  | .clsS _ _ => true
  | .asm _ => false
  | .tick => true
  | .tickS _ _ => true
  | .shdn => false
  | .flt _ => false
  | .rds _ => false

/-- The command is a state-machine step, ASM or TICK. -/
def drivesAudio : Instr → Bool
  | .nop => false
  | .cls => false
  | .clsS _ _ => false
  | .asm _ => true
  | .tick => true
  | .tickS _ _ => true
  | .shdn => false
  | .flt _ => false
  | .rds _ => false

/-- The command ends the host's loop, SHDN or FLT. -/
def endsLoop : Instr → Bool
  | .nop => false
  | .cls => false
  | .clsS _ _ => false
  | .asm _ => false
  | .tick => false
  | .tickS _ _ => false
  | .shdn => true
  | .flt _ => true
  | .rds _ => false

/-- The sample a command carries: at most one (R84). -/
def sampleOf : Instr → Option BusSample
  | .nop => none
  | .cls => none
  | .clsS k a => some { kind := k, addr := a }
  | .asm _ => none
  | .tick => none
  | .tickS k a => some { kind := k, addr := a }
  | .shdn => none
  | .flt _ => none
  | .rds _ => none

/-- The instruction a presented input gives the block: none for an illegal word, and none in a step with reset asserted,
whose word is not executed (R240). -/
def instructionOf (p : Params) (x : PortInput) : Option Instr :=
  if x.reset then none else (decode p.wA x.cmd).toOption

/-! ## A run as the host sees it -/

/-- An event the host performed, with the sink's answer. -/
structure Performed where
  event : Event
  /-- For a `PLAY`: the sink started the sample. No rule reads it for another event. -/
  started : Bool
deriving DecidableEq, Repr

/-- One step as the host and its collaborators see it. -/
structure HostStep where
  /-- What the host presented. -/
  input : PortInput
  /-- The true time of the step, in ms since some fixed moment. -/
  trueTime : Nat
  /-- The sink's `is_playing()` at the start of the step. -/
  sinkIsPlaying : Bool
  /-- The samples whose `get(name)` would succeed in this step (R221). -/
  obtainable : List Sample
  /-- The block's state after the step. -/
  after : State
  /-- What the host performed after this step and before it presented the next one, in that order. -/
  performed : List Performed
deriving DecidableEq, Repr

/-- The steps are those the block takes from `s`: each takes the input the host presents next, and its state is the one
`step` answers. -/
def IsRun : State → List HostStep → Prop
  | _, [] => True
  | s, h :: rest => s.pending.head? = some h.input ∧ step s = .next h.after ∧ IsRun h.after rest

/-! ## The duties -/

/-- Duty 1: `in.now` is the true time in ms, which never decreases, in W_T bits. -/
def MonotonicTime (p : Params) (run : List HostStep) : Prop :=
  run.Pairwise (fun a b => a.trueTime ≤ b.trueTime) ∧
    ∀ h ∈ run, h.input.side.now.toNat = h.trueTime % 2 ^ p.wT

/-- Whether a sink can be playing once these events were performed, from whether it was playing before them: a `STOP`
silences it, and after a `PLAY` it plays exactly if it could start the sample (DEDUCED, log 20). -/
def sinkCanPlay (playing : Bool) : List Performed → Bool
  | [] => playing
  | a :: rest =>
    sinkCanPlay
      (match a.event with
        | .stop => false
        | .play _ _ => a.started
        | .mute _ => playing
        | .log _ _ => playing) rest

/-- Duty 2: `in.snk_playing` is the sink's true state at the start of the step, after every event of earlier steps has been
performed. A sample may end by itself and none starts by itself; so a step that follows a `PLAY` the sink could not start
reports 0. -/
def TruthfulSink (run : List HostStep) : Prop :=
  (∀ h ∈ run, h.input.side.sinkPlaying = h.sinkIsPlaying) ∧
    ∀ q ∈ run.zip run.tail, q.2.sinkIsPlaying = true → sinkCanPlay q.1.sinkIsPlaying q.1.performed = true

/-- Duty 3: `in.lib_ok(s)` is 1 only if `get(s)` would succeed, and a `PLAY(s, ·)` emitted in the step is then
performed. -/
def TruthfulLibrary (run : List HostStep) : Prop :=
  ∀ h ∈ run, ∀ smp, libOk h.input.side smp = true →
    smp ∈ h.obtainable ∧
      ∀ loop, Event.play smp loop ∈ h.after.events → Event.play smp loop ∈ h.performed.map Performed.event

/-- Duty 4: each step's events are performed in list order, and before the next step is presented. -/
def PerformedInOrder (run : List HostStep) : Prop :=
  ∀ h ∈ run, h.performed.map Performed.event = h.after.events

/-- Duty 5: the samples given to the block are captured ones, each at most once, in capture order; samples may be dropped
(R253). That one command carries at most one is the type of `sampleOf`. -/
def SamplesInOrder (p : Params) (captured : List BusSample) (run : List HostStep) : Prop :=
  (run.filterMap fun h => (instructionOf p h.input).bind sampleOf).Sublist captured

/-- Some step of the list gives the block an instruction of this kind. -/
def Gives (p : Params) (kind : Instr → Bool) (steps : List HostStep) : Prop :=
  ∃ h ∈ steps, (instructionOf p h.input).any kind = true

/-- The last step of the list gives the block SHDN or FLT. -/
def EndsTheLoop (p : Params) (steps : List HostStep) : Prop :=
  (steps.getLast?.bind fun h => instructionOf p h.input).any endsLoop = true

/-- One iteration of the host's loop gives the block a classify cycle, and a state-machine step. -/
def Polls (p : Params) (iteration : List HostStep) : Prop :=
  Gives p classifies iteration ∧ Gives p drivesAudio iteration

/-- Duty 6: after the resets it begins with, the run is made of the host's loop iterations, and every one polls, but for a
last one that SHDN or FLT cuts short (DEDUCED, log 16). -/
def PollsEveryIteration (p : Params) (resets : List HostStep) (iterations : List (List HostStep))
    (run : List HostStep) : Prop :=
  run = resets ++ iterations.flatten ∧ (∀ h ∈ resets, h.input.reset = true) ∧
    (∀ it ∈ iterations.dropLast, Polls p it) ∧
    ∀ it ∈ iterations.getLast?, Polls p it ∨ EndsTheLoop p it

/-- Duty 7: the run ends with SHDN or FLT, and is over when power is removed. -/
def OrderlyEnd (p : Params) (run : List HostStep) : Prop := EndsTheLoop p run

/-- All seven duties, on a run of the block from `s` to the removal of power. -/
structure KeepsDuties (s : State) (captured : List BusSample) (resets : List HostStep)
    (iterations : List (List HostStep)) (run : List HostStep) : Prop where
  isRun : IsRun s run
  monotonicTime : MonotonicTime s.params run
  truthfulSink : TruthfulSink run
  truthfulLibrary : TruthfulLibrary run
  performedInOrder : PerformedInOrder run
  samplesInOrder : SamplesInOrder s.params captured run
  polls : PollsEveryIteration s.params resets iterations run
  orderlyEnd : OrderlyEnd s.params run

/-! ## Draining (R181) -/

/-- Draining several samples in one loop iteration (R181): one `cls.s` for each, and then `asm B` with B the OR of the
busy levels seen. -/
def drainCommands (samples : List BusSample) (busySeen : List Bool) : List Instr :=
  samples.map (fun x => .clsS x.kind x.addr) ++ [.asm (busySeen.any id)]

end Sys2Proof.Machine
end

