-- ==== Sys2Proof/Safety.lean ====
section
/-! DEFINITION. What a safe run of the block is: the invariants of R43, the widths of R20, R21, R27, the events of a run
(R68), and the premises of the properties R123 and R152. The host's duties (R250) are in
Machine/HostDuties.lean. -/

namespace Sys2Proof.Machine

/-! ## Invariants -/

/-- The state invariants R43 numbers 1 and 3 to 6 (item 2 is the type of STATE), and one that R143 rests on. -/
structure Inv (s : State) : Prop where
  /-- Item 1. -/
  dcnt_le : s.dcnt.toNat ≤ s.cfg.threshold.toNat
  /-- Item 1. -/
  scnt_le : s.scnt.toNat ≤ s.cfg.threshold.toNat
  /-- Item 3. -/
  spinup_hold : s.state = .spinup → s.hold = false
  /-- Item 4. -/
  unmuted : s.muted = false → s.spin = true ∧ s.halted = false
  /-- Item 5. -/
  halted_muted : s.halted = true → s.muted = true
  /-- Item 6. -/
  faulted_halted : s.faulted = true → s.halted = true
  /-- No item of R43: what R143 says of TCHG at the end of spin-up, "they stay at their reset values 0". -/
  spinup_tchg : s.state = .spinup → s.tchg = 0

/-- Every register, configuration field and sampled time fits the width the block's parameters give it (R20, R21, R27,
R37). The registers of fixed width need no clause. -/
structure InWidths (s : State) : Prop where
  dcnt_lt : s.dcnt.toNat < 2 ^ s.params.wC
  scnt_lt : s.scnt.toNat < 2 ^ s.params.wC
  last_lt : s.last.toNat < 2 ^ s.params.wT
  tchg_lt : s.tchg.toNat < 2 ^ s.params.wT
  now_lt : s.side.now.toNat < 2 ^ s.params.wT
  dataPort_lt : s.cfg.dataPort.toNat < 2 ^ s.params.wA
  statusPort_lt : s.cfg.statusPort.toNat < 2 ^ s.params.wA
  threshold_lt : s.cfg.threshold.toNat < 2 ^ s.params.wTH
  timeout_lt : s.cfg.timeout.toNat < 2 ^ s.params.wT
  minDelay_lt : s.cfg.minDelay.toNat < 2 ^ s.params.wT

/-- Every field of a configuration record fits the width of its input pins (R8, R21). -/
structure CfgInWidths (p : Params) (c : Cfg) : Prop where
  dataPort_lt : c.dataPort.toNat < 2 ^ p.wA
  statusPort_lt : c.statusPort.toNat < 2 ^ p.wA
  threshold_lt : c.threshold.toNat < 2 ^ p.wTH
  timeout_lt : c.timeout.toNat < 2 ^ p.wT
  minDelay_lt : c.minDelay.toNat < 2 ^ p.wT

/-! ## Time differences, as numbers (R11) -/

/-- `(now - start) mod 2^W_T` as a number. -/
def timeSince (s : State) (start : Time) : Nat := (s.side.now - start).toNat % 2 ^ s.params.wT

/-- The gap since LAST exceeds `cfg.TIMEOUT` (R112). -/
abbrev GapExceeds (s : State) : Prop := s.cfg.timeout.toNat < timeSince s s.last

/-- A counter's value before step 2 of a classify cycle: 0 past the timeout, and otherwise the register (R112). -/
def countBefore (s : State) (c : Count) : Nat := if GapExceeds s then 0 else c.toNat

/-- The hold does not block a transition in this step: it is not armed, or `cfg.MIN_DELAY` has elapsed (R144). -/
abbrev HoldOver (s : State) : Prop := s.hold = false ∨ s.cfg.minDelay.toNat ≤ timeSince s s.tchg

/-! ## Runs -/

/-- `k` steps of the block, stopping at the first refusal: the host's `Core.run` of `Sys2Proof.core`. -/
def runSteps : Nat → State → Host.Outcome State Fault Refusal
  | 0, s => .next s
  | k + 1, s =>
    match step s with
    | .next t => runSteps k t
    | .fault r => .fault r
    | .refused r => .refused r

/-- The events of the first `k` steps, those of an earlier step first (R68); the list ends where a step is refused. -/
def eventTrace : Nat → State → List Event
  | 0, _ => []
  | k + 1, s =>
    match step s with
    | .next t => t.events ++ eventTrace k t
    | .fault _ => []
    | .refused _ => []

/-- The value of the last `MUTE` event of a list, if it has one. -/
def lastMute : List Event → Option Bool
  | [] => none
  | e :: rest =>
    match lastMute rest with
    | some b => some b
    | none =>
      match e with
      | .stop => none
      | .play _ _ => none
      | .mute b => some b
      | .log _ _ => none

/-- The event is `STOP` or a `MUTE`. -/
def stopsOrMutes : Event → Bool
  | .stop => true
  | .play _ _ => false
  | .mute _ => true
  | .log _ _ => false

/-- Reset is not asserted in any of the first `k` presented inputs. -/
def NoResetIn (k : Nat) (s : State) : Prop := ∀ x ∈ s.pending.take k, x.reset = false

/-! ## The threshold property's premises (R123) -/

/-- The two ports the block monitors. -/
inductive MonitoredPort where
  | data
  | status
deriving DecidableEq, Repr

/-- The counter of a port (R25, R26). -/
def counterOf (s : State) : MonitoredPort → Count
  | .data => s.dcnt
  | .status => s.scnt

/-- A sample at this address counts into the port's counter (R113): at the status port only if it is not the data
port. -/
def countsInto (c : Cfg) (a : Addr) : MonitoredPort → Prop
  | .data => a = c.dataPort
  | .status => a = c.statusPort ∧ a ≠ c.dataPort

/-- The input presents, without reset, a `cls.s` whose sample counts into the port's counter. -/
def PresentsSample (p : Params) (c : Cfg) (m : MonitoredPort) (x : PortInput) : Prop :=
  x.reset = false ∧ ∃ k a, decode p.wA x.cmd = .instr (.clsS k a) ∧ countsInto c a m

/-- Each input comes at most `cfg.TIMEOUT` after the one before it (R123). -/
def GapsBetween (p : Params) (c : Cfg) : List PortInput → Prop
  | [] => True
  | [_] => True
  | x :: y :: rest =>
    ((sampleSide p y.side).now - (sampleSide p x.side).now).toNat % 2 ^ p.wT ≤ c.timeout.toNat ∧
      GapsBetween p c (y :: rest)

end Sys2Proof.Machine
end

