-- ==== Sys2Proof/Certificates/Slice0/Obligations.lean ====
section
/-! DEFINITION. The statements for the provers. Each cites the rule of spec/ it rests on; OBLIGATIONS.json lists them. -/

open Sys2Proof Sys2Proof.Machine

/-! ## Encoding -/

/-- Decoding an encoded instruction gives it back, for every address width, operation and operand (R83 to R90). -/
def Obligations.DecodeInvertsEncode : Prop :=
  ∀ (p : Params) (i : Instr), i.wf p.wA = true → decode p.wA (encode i) = .instr i

/-- The decoder reads an instruction from exactly the words `legal(cmd)` of R90 takes. -/
def Obligations.DecodesExactlyTheLegalWords : Prop :=
  ∀ (p : Params) (w : Word), (∃ i, decode p.wA w = .instr i) ↔ legal p.wA w = true

/-- A decoded word is the encoding of its instruction, and the instruction is well formed: no bit of a legal word is
dropped (R81, R90). -/
def Obligations.DecodedWordIsItsEncoding : Prop :=
  ∀ (p : Params) (w : Word) (i : Instr), decode p.wA w = .instr i → i.wf p.wA = true ∧ encode i = w

/-- A decoded word is of its instruction's row of opcode_table.json and of no other row. -/
def Obligations.DecodedWordLiesInItsTableRowOnly : Prop :=
  ∀ (p : Params) (w : Word) (i : Instr), decode p.wA w = .instr i →
    i.row.covers w = true ∧ ∀ r ∈ opcodeTable, r.covers w = true → r = i.row

/-- The worked encodings of R96 (the spec's own inference from R84 to R88), read and written, and its three illegal words. -/
def Obligations.WorkedEncodings : Prop :=
  decode Params.reference.wA 0x18000300 = .instr (.clsS .read 0x0300) ∧ encode (.clsS .read 0x0300) = 0x18000300 ∧
  decode Params.reference.wA 0x1C000301 = .instr (.clsS .write 0x0301) ∧ encode (.clsS .write 0x0301) = 0x1C000301 ∧
  decode Params.reference.wA 0x38000300 = .instr (.tickS .read 0x0300) ∧ encode (.tickS .read 0x0300) = 0x38000300 ∧
  decode Params.reference.wA 0x28000000 = .instr (.asm true) ∧ encode (.asm true) = 0x28000000 ∧
  decode Params.reference.wA 0x500000AB = .instr (.flt 0x00AB) ∧ encode (.flt 0x00AB) = 0x500000AB ∧
  decode Params.reference.wA 0x60000009 = .instr (.rds 0x09) ∧ encode (.rds 0x09) = 0x60000009 ∧
  decode Params.reference.wA 0x10000300 = .illegal (.reservedBits .cls) ∧
  decode Params.reference.wA 0x10010000 = .illegal (.reservedBits .cls) ∧
  decode Params.reference.wA 0x70000000 = .illegal (.reservedOp 7)

/-- A word on a narrower interface is four bytes, least significant first, and is taken only once all four are present
(R62). -/
def Obligations.CommandBytesLittleEndian : Prop :=
  (∀ (w : Word) (rest : List Byte), takeCommand (bytesOfWord w ++ rest) = some (w, rest)) ∧
  (∀ w : Word, bytesOfWord w =
    [w.extractLsb' 0 8, w.extractLsb' 8 8, w.extractLsb' 16 8, w.extractLsb' 24 8]) ∧
  ∀ bs : List Byte, bs.length < 4 → takeCommand bs = none

/-- The fields of the event words of R95. -/
def Obligations.EventWordLayout : Prop :=
  eventWord .stop = 0x10000000 ∧
  (∀ s loop, eventWord (.play s loop) =
    BitVec.ofNat 32 (0x20000000 + (sampleArg s).toNat * 2 ^ 8 + (if loop then 1 else 0))) ∧
  (∀ b, eventWord (.mute b) = BitVec.ofNat 32 (0x30000000 + (if b then 1 else 0))) ∧
  ∀ code arg, eventWord (.log code arg) =
    BitVec.ofNat 32 (0x40000000 + (logNumber code).toNat * 2 ^ 16 + arg.toNat)

/-- Two events with one word are one event (R95). -/
def Obligations.EventWordsDistinct : Prop := ∀ e f : Event, eventWord e = eventWord f → e = f

/-! ## Reset and the step -/

/-- A step with reset asserted, in any state, latches the configuration inputs, gives every register its reset value,
drives `rdata` to 0, emits nothing, and does not execute the command word (R240, R41). -/
def Obligations.ResetAssertedResetsTheBlock : Prop :=
  ∀ (s : State) (x : PortInput) (rest : List PortInput), s.pending = x :: rest → x.reset = true →
    ∃ t, step s = .next t ∧
      t = { s with
        state := .spinup, busy := false, dcnt := 0, scnt := 0, last := 0, tchg := 0, hold := false, spin := false
        muted := true, halted := false, faulted := false, finfo := 0, illegal := false
        cfg := t.cfg, events := [], rdata := 0, side := t.side, pending := t.pending, initialised := true } ∧
      (CfgInWidths s.params x.cfgPins → t.cfg = x.cfgPins)

/-- The reset values of R20's table, in `State.reset`. -/
def Obligations.ResetStateRegisters : Prop :=
  State.reset.state = .spinup ∧ State.reset.busy = false ∧ State.reset.dcnt = 0 ∧ State.reset.scnt = 0 ∧
  State.reset.last = 0 ∧ State.reset.tchg = 0 ∧ State.reset.hold = false ∧ State.reset.spin = false ∧
  State.reset.muted = true ∧ State.reset.halted = false ∧ State.reset.faulted = false ∧ State.reset.finfo = 0 ∧
  State.reset.illegal = false ∧ State.reset.rdata = 0 ∧ State.reset.events = []

/-- Before the first reset, a step without reset is refused (R242). -/
def Obligations.StepBeforeFirstResetRefused : Prop :=
  ∀ (s : State) (x : PortInput) (rest : List PortInput), s.initialised = false → s.pending = x :: rest →
    x.reset = false → step s = .refused .beforeFirstReset

/-- The model's own choice (log 2): with no command word presented there is no step. -/
def Obligations.StepWithoutCommandRefused : Prop :=
  ∀ s : State, s.pending = [] → step s = .refused .noCommandPresented

/-- A step runs the decoded command, on the state with the input taken, the side inputs sampled, the event list empty and
`rdata` 0 (R188, R37, R38). That a time wider than W_T is taken modulo 2^W_T is the model's (log 4), and so is the input
queue (log 1). -/
def Obligations.StepRunsTheDecodedCommand : Prop :=
  ∀ (s : State) (x : PortInput) (rest : List PortInput) (i : Instr), s.initialised = true → s.pending = x :: rest →
    x.reset = false → decode s.params.wA x.cmd = .instr i →
    step s = exec i { s with
      pending := rest
      side := { x.side with now := lowBits s.params.wT x.side.now }
      events := []
      rdata := 0 }

/-- The configuration is what the last reset latched from the configuration inputs; no command changes it (R241). -/
def Obligations.ConfigurationHeldUntilReset : Prop :=
  ∀ (s t : State) (x : PortInput) (rest : List PortInput), s.pending = x :: rest → step s = .next t →
    (x.reset = true → CfgInWidths s.params x.cfgPins → t.cfg = x.cfgPins) ∧ (x.reset = false → t.cfg = s.cfg)

/-- An illegal word on a running block sets ILLEGAL, logs its OP, and changes nothing else (R185). -/
def Obligations.IllegalWordIsLogged : Prop :=
  ∀ (s : State) (x : PortInput) (rest : List PortInput), s.initialised = true → s.pending = x :: rest →
    x.reset = false → legal s.params.wA x.cmd = false → s.halted = false →
    ∃ t, step s = .next t ∧ t = { s with
      pending := t.pending
      side := t.side
      rdata := 0
      illegal := true
      events := [.log .illegalCommand ((x.cmd.extractLsb 31 28).setWidth 16)] }

/-- On a halted block a legal RDS reads and every other word, legal or not, has no effect; only reset leaves the halted
state (R186). -/
def Obligations.HaltedBlockOnlyReads : Prop :=
  ∀ (s : State) (x : PortInput) (rest : List PortInput), s.initialised = true → s.pending = x :: rest →
    s.halted = true →
    (x.reset = false → ∃ t, step s = .next t ∧ t = { s with
      pending := t.pending
      side := t.side
      events := []
      rdata :=
        if legal s.params.wA x.cmd = true ∧ x.cmd.extractLsb 31 28 = 6 then readRegister s (x.cmd.extractLsb 7 0)
        else 0 }) ∧
    (x.reset = true → ∃ t, step s = .next t ∧ t.halted = false)

/-! ## The classifier -/

/-- `cls` on a running block: past the timeout the counters go to 0 and LAST to the current time; without a sample a
counter fires only if it already exceeds the threshold (R111, R112, R115, R117). -/
def Obligations.ClsWithoutSample : Prop :=
  ∀ s : State, s.halted = false →
    exec .cls s = .next { s with
      dcnt := if GapExceeds s ∨ s.cfg.threshold.toNat < s.dcnt.toNat then 0 else s.dcnt
      scnt := if GapExceeds s ∨ s.cfg.threshold.toNat < s.scnt.toNat then 0 else s.scnt
      last := if GapExceeds s then s.side.now else s.last
      busy := decide (¬ GapExceeds s ∧
        (s.cfg.threshold.toNat < s.dcnt.toNat ∨ s.cfg.threshold.toNat < s.scnt.toNat)) }

/-- `cls.s` at the data port: DCNT is counted up exactly, after the timeout test, and fires above the threshold; SCNT
changes only by the timeout (R111 to R115, R117). -/
def Obligations.ClsSampleAtDataPort : Prop :=
  ∀ (s : State) (k : Strobe), s.halted = false → Inv s → InWidths s →
    exec (.clsS k s.cfg.dataPort) s = .next { s with
      dcnt :=
        if s.cfg.threshold.toNat < countBefore s s.dcnt + 1 then 0 else BitVec.ofNat 17 (countBefore s s.dcnt + 1)
      scnt := if GapExceeds s then 0 else s.scnt
      last := s.side.now
      busy := decide (s.cfg.threshold.toNat < countBefore s s.dcnt + 1) }

/-- `cls.s` at the status port, where it is not the data port too: SCNT is counted up exactly and fires above the
threshold; DCNT changes only by the timeout (R111 to R115, R117). -/
def Obligations.ClsSampleAtStatusPort : Prop :=
  ∀ (s : State) (k : Strobe), s.halted = false → Inv s → InWidths s → s.cfg.statusPort ≠ s.cfg.dataPort →
    exec (.clsS k s.cfg.statusPort) s = .next { s with
      dcnt := if GapExceeds s then 0 else s.dcnt
      scnt :=
        if s.cfg.threshold.toNat < countBefore s s.scnt + 1 then 0 else BitVec.ofNat 17 (countBefore s s.scnt + 1)
      last := s.side.now
      busy := decide (s.cfg.threshold.toNat < countBefore s s.scnt + 1) }

/-- `cls.s` at any other address is `cls`: the sample is discarded and the timeout still applies (R113, R118 item 6). -/
def Obligations.ClsOtherSampleDiscarded : Prop :=
  ∀ (s : State) (k : Strobe) (a : Addr), a ≠ s.cfg.dataPort → a ≠ s.cfg.statusPort →
    ∃ t, exec .cls s = .next t ∧ exec (.clsS k a) s = .next t

/-- The frame of `cls` and `cls.s`: DCNT, SCNT, LAST and BUSY, and nothing else, in every state (R111). -/
def Obligations.ClassifyFrame : Prop :=
  ∀ (s t : State) (i : Instr), (i = .cls ∨ ∃ k a, i = .clsS k a) → exec i s = .next t →
    t = { s with dcnt := t.dcnt, scnt := t.scnt, last := t.last, busy := t.busy }

/-- In a classify cycle the counts after step 2 decide: a counter strictly above the threshold fires and is reset, the
other keeps its value, firing does not change LAST, and BUSY is 1 exactly if a counter fired (R115, R117). -/
def Obligations.FiringConsumesOneCounter : Prop :=
  ∀ (s : State) (v : Option BusSample),
    (classify v s).busy = (decide (s.cfg.threshold.toNat < (countSample v (timeoutReset s)).dcnt.toNat) ||
      decide (s.cfg.threshold.toNat < (countSample v (timeoutReset s)).scnt.toNat)) ∧
    (classify v s).dcnt = (if s.cfg.threshold.toNat < (countSample v (timeoutReset s)).dcnt.toNat then 0
      else (countSample v (timeoutReset s)).dcnt) ∧
    (classify v s).scnt = (if s.cfg.threshold.toNat < (countSample v (timeoutReset s)).scnt.toNat then 0
      else (countSample v (timeoutReset s)).scnt) ∧
    (classify v s).last = (countSample v (timeoutReset s)).last

/-- From counters at most the threshold: step 2 adds at most 1, exactly, to at most one counter; at most one counter
fires; and both end at most the threshold (the spec's own inference, R116, R27). -/
def Obligations.AtMostOneCounterFires : Prop :=
  ∀ (s : State) (v : Option BusSample), Inv s → InWidths s →
    ((countSample v (timeoutReset s)).scnt = (timeoutReset s).scnt ∧
        (countSample v (timeoutReset s)).dcnt.toNat ≤ (timeoutReset s).dcnt.toNat + 1 ∧
        (timeoutReset s).dcnt.toNat ≤ (countSample v (timeoutReset s)).dcnt.toNat ∨
      (countSample v (timeoutReset s)).dcnt = (timeoutReset s).dcnt ∧
        (countSample v (timeoutReset s)).scnt.toNat ≤ (timeoutReset s).scnt.toNat + 1 ∧
        (timeoutReset s).scnt.toNat ≤ (countSample v (timeoutReset s)).scnt.toNat) ∧
    ¬ (s.cfg.threshold.toNat < (countSample v (timeoutReset s)).dcnt.toNat ∧
      s.cfg.threshold.toNat < (countSample v (timeoutReset s)).scnt.toNat) ∧
    (classify v s).dcnt.toNat ≤ s.cfg.threshold.toNat ∧ (classify v s).scnt.toNat ≤ s.cfg.threshold.toNat

/-- A `cls` whose gap is at most the timeout, after any classify cycle, leaves the counters and LAST and writes BUSY 0; a
second one leaves all four; so does the first one if the cycle before did not fire (the spec's own inference, R122). `side1` and `side2` are the
side inputs of the two steps. -/
def Obligations.ClassifyWithoutSampleIdempotent : Prop :=
  ∀ (s0 s1 s2 : State) (v : Option BusSample) (side1 side2 : SideInputs), s0.halted = false →
    s1 = { classify v s0 with side := side1 } → ¬ GapExceeds s1 →
    exec .cls s1 = .next { s1 with busy := false } ∧
    (s1.busy = false → exec .cls s1 = .next s1) ∧
    (s2 = { s1 with busy := false, side := side2 } → ¬ GapExceeds s2 → exec .cls s2 = .next s2)

/-- Samples at one port, in consecutive steps, each gap at most the timeout, from a counter of 0: the cycle of sample
number `THRESHOLD + 1`, and none before it, has BUSY 1; its counter is 0 after it; and the next sample counts as 1, which
for a zero threshold fires again (the spec's own inference, R123, with R118 item 2). Times are as
the model samples them (log 4). -/
def Obligations.ThresholdRunFiresOnce : Prop :=
  ∀ (s : State) (m : MonitoredPort) (xs rest : List PortInput) (y z : PortInput),
    s.initialised = true → s.halted = false → Inv s → InWidths s → counterOf s m = 0 →
    s.pending = xs ++ y :: z :: rest → xs.length = s.cfg.threshold.toNat →
    (∀ x ∈ xs ++ [y, z], PresentsSample s.params s.cfg m x) → GapsBetween s.params s.cfg (xs ++ [y, z]) →
    (∀ j ≤ xs.length, ∃ t, runSteps j s = .next t ∧ (counterOf t m).toNat = j ∧ (0 < j → t.busy = false)) ∧
    (∃ t, runSteps (xs.length + 1) s = .next t ∧ t.busy = true ∧ counterOf t m = 0) ∧
    ∃ t, runSteps (xs.length + 2) s = .next t ∧
      (0 < s.cfg.threshold.toNat → t.busy = false ∧ counterOf t m = 1) ∧
      (s.cfg.threshold.toNat = 0 → t.busy = true ∧ counterOf t m = 0)

/-- While both counters are 0, what LAST holds changes no event and no register but LAST itself, and `rdata`, which can
read it, in any run (the spec's own inference, R120, R121). -/
def Obligations.LastUnobservableAtZeroCounters : Prop :=
  ∀ (s : State) (l : Time) (k : Nat), s.dcnt = 0 → s.scnt = 0 →
    eventTrace k { s with last := l } = eventTrace k s ∧
    ∀ t, runSteps k s = .next t → ∃ l' r, runSteps k { s with last := l } = .next { t with last := l', rdata := r }

/-- The classifier does not read the strobe kind (R114). -/
def Obligations.StrobeKindNotRead : Prop :=
  ∀ (s : State) (a : Addr), exec (.clsS .read a) s = exec (.clsS .write a) s ∧
    exec (.tickS .read a) s = exec (.tickS .write a) s

/-- The wrap-around difference of two times is the true elapsed time while that is below 2^W_T ms (R252). -/
def Obligations.TimeDifferenceIsElapsedTime : Prop :=
  ∀ (s : State) (start : Time) (t0 t1 : Nat), t0 ≤ t1 → t1 - t0 < 2 ^ s.params.wT →
    start.toNat = t0 % 2 ^ s.params.wT → s.side.now.toNat = t1 % 2 ^ s.params.wT →
    (elapsed s start).toNat = t1 - t0

/-! ## The state machine -/

/-- The first `asm` after reset: the configuration warning if there is one, unmute, the spin-up sample once or the log
that it is unavailable, and SPIN (R141, R22). -/
def Obligations.SpinUpStart : Prop :=
  ∀ (s : State) (b : Bool), s.halted = false → s.state = .spinup → s.spin = false →
    exec (.asm b) s = .next { s with
      muted := false
      spin := true
      events := s.events ++
        (if s.cfg.threshold = 0 ∨ s.cfg.timeout = 0 then
          [.log .configInvalid (BitVec.ofNat 16
            ((if s.cfg.threshold = 0 then 1 else 0) + (if s.cfg.timeout = 0 then 2 else 0)))]
        else []) ++
        [.mute false] ++
        [if s.side.okSpinup then .play .spinup false else .log .sampleUnavailable 0] }

/-- While the spin-up sample plays, `asm` changes nothing and emits nothing, whatever its busy level (R142). -/
def Obligations.SpinUpWait : Prop :=
  ∀ (s : State) (b : Bool), s.state = .spinup → s.spin = true → s.side.sinkPlaying = true →
    exec (.asm b) s = .next s

/-- Once the spin-up sample has finished: IDLE, the idle sample in a loop or the log that it is unavailable, no STOP, and
HOLD and TCHG unchanged, at their reset values in every state the invariant allows (R143). -/
def Obligations.SpinUpToIdle : Prop :=
  ∀ (s : State) (b : Bool), s.halted = false → s.state = .spinup → s.spin = true → s.side.sinkPlaying = false →
    exec (.asm b) s = .next { s with
      state := .idle
      events := s.events ++ [if s.side.okIdle then .play .idle true else .log .sampleUnavailable 1] } ∧
    (Inv s → s.hold = false ∧ s.tchg = 0)

/-- A due transition whose sample is available: STOP, the target's sample in a loop, STATE, TCHG, and the hold armed
(R146, with R144 and R145). -/
def Obligations.TransitionTaken : Prop :=
  ∀ s : State, s.halted = false → HoldOver s →
    (s.state = .idle → s.side.okAccess = true →
      exec (.asm true) s = .next { s with
        state := .access, tchg := s.side.now, hold := true
        events := s.events ++ [.stop, .play .access true] }) ∧
    (s.state = .access → s.side.okIdle = true →
      exec (.asm false) s = .next { s with
        state := .idle, tchg := s.side.now, hold := true
        events := s.events ++ [.stop, .play .idle true] })

/-- A due transition whose sample is unavailable: logged, no STOP, STATE and TCHG unchanged, HOLD as the guard test left
it; then the restart rule for the current state (R147, R148). -/
def Obligations.TransitionUnavailable : Prop :=
  ∀ s : State, s.halted = false → HoldOver s →
    (s.state = .idle → s.side.okAccess = false →
      exec (.asm true) s = .next { s with
        hold := false
        events := s.events ++ [.log .sampleUnavailable 2] ++
          (if s.side.sinkPlaying then [] else
            [if s.side.okIdle then .play .idle true else .log .sampleUnavailable 1]) }) ∧
    (s.state = .access → s.side.okIdle = false →
      exec (.asm false) s = .next { s with
        hold := false
        events := s.events ++ [.log .sampleUnavailable 1] ++
          (if s.side.sinkPlaying then [] else
            [if s.side.okAccess then .play .access true else .log .sampleUnavailable 2]) })

/-- A step in a looping state that takes no transition writes HOLD by the guard test, and emits the failed transition's
log if one was due, and then, only if the sink has stopped, the restart of the current state's sample (R144, R148). -/
def Obligations.RestartWithoutTransition : Prop :=
  ∀ (s : State) (cur : LoopState) (b : Bool), s.halted = false → s.state = loopPlayback cur →
    ¬ (wanted b ≠ cur ∧ HoldOver s ∧ libOk s.side (loopSample (wanted b)) = true) →
    exec (.asm b) s = .next { s with
      hold := s.hold && decide (timeSince s s.tchg < s.cfg.minDelay.toNat)
      events := s.events ++
        (if wanted b ≠ cur ∧ HoldOver s then [.log .sampleUnavailable (sampleArg (loopSample (wanted b)))] else []) ++
        (if s.side.sinkPlaying then [] else
          [if libOk s.side (loopSample cur) then .play (loopSample cur) true
            else .log .sampleUnavailable (sampleArg (loopSample cur))]) }

/-- The frame of `asm`: STATE, TCHG, HOLD, SPIN, MUTED and appended events, and nothing else, in every state (R149). -/
def Obligations.AsmFrame : Prop :=
  ∀ (s t : State) (b : Bool), exec (.asm b) s = .next t →
    t = { s with
      state := t.state, tchg := t.tchg, hold := t.hold, spin := t.spin, muted := t.muted, events := t.events } ∧
    ∃ es, t.events = s.events ++ es

/-- Hysteresis: after a transition at TCHG, no step whose time is less than `cfg.MIN_DELAY` later takes another one,
whatever the commands; and the first `asm` at least that much later whose busy level asks for the other state takes it if
its sample is available (the spec's own inference, R152).
Times are as the model samples them (log 4). -/
def Obligations.HoldBlocksTransitions : Prop :=
  ∀ (k : Nat) (s t : State), s.hold = true → s.state ≠ .spinup → NoResetIn k s →
    (∀ x ∈ s.pending.take k,
      ((sampleSide s.params x.side).now - s.tchg).toNat % 2 ^ s.params.wT < s.cfg.minDelay.toNat) →
    runSteps k s = .next t →
    (t.state = s.state ∧ t.hold = true ∧ t.tchg = s.tchg) ∧
    ∀ (y : PortInput) (rest : List PortInput) (b : Bool), t.pending = y :: rest → y.reset = false →
      t.initialised = true → t.halted = false → decode t.params.wA y.cmd = .instr (.asm b) →
      t.state ≠ loopPlayback (wanted b) →
      s.cfg.minDelay.toNat ≤ ((sampleSide s.params y.side).now - s.tchg).toNat % 2 ^ s.params.wT →
      libOk y.side (loopSample (wanted b)) = true →
      ∃ u, step t = .next u ∧ u.state = loopPlayback (wanted b) ∧ u.hold = true ∧
        u.tchg = (sampleSide s.params y.side).now

/-! ## The control-loop tick -/

/-- `tick` and `tick.s` on a running block: outside SPINUP, the classify cycle and then the state machine driven by BUSY,
with one time for both; in SPINUP, the state machine alone, and a sample is dropped (R180). -/
def Obligations.TickClassifiesThenDrives : Prop :=
  encode .tick = 0x30000000 ∧
  (∀ k a, (encode (.tickS k a)).toNat = 0x38000000 + k.bit.toNat * 2 ^ 26 + a.toNat) ∧
  ∀ s : State, s.halted = false →
    (s.state ≠ .spinup →
      (∃ t u, exec .cls s = .next t ∧ exec (.asm t.busy) t = .next u ∧ exec .tick s = .next u) ∧
      ∀ k a, ∃ t u, exec (.clsS k a) s = .next t ∧ exec (.asm t.busy) t = .next u ∧
        exec (.tickS k a) s = .next u) ∧
    (s.state = .spinup →
      ∃ u, (∀ b, exec (.asm b) s = .next u) ∧ exec .tick s = .next u ∧ ∀ k a, exec (.tickS k a) s = .next u)

/-- The example of R180: in IDLE with DCNT at the threshold, a `tick.s` at the data port fires the counter and reaches
ACCESS in the same step. -/
def Obligations.TickFiringReachesAccess : Prop :=
  ∀ (s : State) (k : Strobe), s.halted = false → Inv s → InWidths s → s.state = .idle → s.hold = false →
    s.side.okAccess = true → ¬ GapExceeds s → s.dcnt.toNat = s.cfg.threshold.toNat →
    exec (.tickS k s.cfg.dataPort) s = .next { s with
      dcnt := 0, last := s.side.now, busy := true
      state := .access, tchg := s.side.now, hold := true
      events := s.events ++ [.stop, .play .access true] }

/-- The frame of `tick` and `tick.s`: what `cls` and `asm` write, and nothing else, in every state (R180). -/
def Obligations.TickFrame : Prop :=
  ∀ (s t : State) (i : Instr), (i = .tick ∨ ∃ k a, i = .tickS k a) → exec i s = .next t →
    t = { s with
      dcnt := t.dcnt, scnt := t.scnt, last := t.last, busy := t.busy
      state := t.state, tchg := t.tchg, hold := t.hold, spin := t.spin, muted := t.muted, events := t.events } ∧
    ∃ es, t.events = s.events ++ es

/-! ## The system commands -/

/-- `nop` changes no register, emits nothing, and leaves `rdata` 0, in every state, halted too (R182). -/
def Obligations.NopChangesNothing : Prop :=
  (∀ s : State, exec .nop s = .next s) ∧
  ∀ (s : State) (x : PortInput) (rest : List PortInput), s.initialised = true → s.pending = x :: rest →
    x.reset = false → x.cmd = 0x00000000 →
    ∃ t, step s = .next t ∧ t = { s with pending := t.pending, side := t.side, events := [], rdata := 0 }

/-- `shdn` on a running block: STOP, MUTE(1), MUTED and HALTED, everything else kept; every later command but RDS has no
effect (R183). -/
def Obligations.ShdnStopsMutesHalts : Prop :=
  encode .shdn = 0x40000000 ∧
  ∀ s t : State, s.halted = false →
    t = { s with muted := true, halted := true, events := s.events ++ [.stop, .mute true] } →
    exec .shdn s = .next t ∧ ∀ i : Instr, (∀ idx, i ≠ .rds idx) → exec i t = .next t

/-- `flt` on a running block: the shutdown sequence, then FAULTED and FINFO, then the report, everything else kept; every
later command but RDS has no effect (R184). -/
def Obligations.FltStopsMutesHaltsReports : Prop :=
  (∀ info, (encode (.flt info)).toNat = 0x50000000 + info.toNat) ∧
  ∀ (s t : State) (info : Info), s.halted = false →
    t = { s with
      muted := true, halted := true, faulted := true, finfo := info
      events := s.events ++ [.stop, .mute true, .log .runtimeFault info] } →
    exec (.flt info) s = .next t ∧ ∀ i : Instr, (∀ idx, i ≠ .rds idx) → exec i t = .next t

/-- `rds` writes `rdata` and nothing else, in every state; the indices of R40 read their registers and configuration
fields, zero-extended, and every other index reads 0 (R187, R40). -/
def Obligations.RdsReadsTheTable : Prop :=
  (∀ idx, (encode (.rds idx)).toNat = 0x60000000 + idx.toNat) ∧
  ∀ (s : State) (idx : Index), exec (.rds idx) s = .next { s with rdata := readRegister s idx } ∧
    (readRegister s 0x00).toNat = (match s.state with | .spinup => 0 | .idle => 1 | .access => 2) ∧
    (readRegister s 0x01).toNat = s.busy.toNat ∧ (readRegister s 0x02).toNat = s.dcnt.toNat ∧
    (readRegister s 0x03).toNat = s.scnt.toNat ∧ (readRegister s 0x04).toNat = s.last.toNat ∧
    (readRegister s 0x05).toNat = s.tchg.toNat ∧ (readRegister s 0x06).toNat = s.hold.toNat ∧
    (readRegister s 0x07).toNat = s.spin.toNat ∧ (readRegister s 0x08).toNat = s.muted.toNat ∧
    (readRegister s 0x09).toNat = s.halted.toNat ∧ (readRegister s 0x0A).toNat = s.faulted.toNat ∧
    (readRegister s 0x0B).toNat = s.finfo.toNat ∧ (readRegister s 0x0C).toNat = s.illegal.toNat ∧
    (readRegister s 0x0D).toNat =
      (if s.cfg.threshold = 0 then 1 else 0) + (if s.cfg.timeout = 0 then 2 else 0) ∧
    (readRegister s 0x10).toNat = s.cfg.dataPort.toNat ∧ (readRegister s 0x11).toNat = s.cfg.statusPort.toNat ∧
    (readRegister s 0x12).toNat = s.cfg.threshold.toNat ∧ (readRegister s 0x13).toNat = s.cfg.timeout.toNat ∧
    (readRegister s 0x14).toNat = s.cfg.minDelay.toNat ∧
    (0x0D < idx.toNat ∧ idx.toNat < 0x10 ∨ 0x14 < idx.toNat → readRegister s idx = 0)

/-! ## Rules of the whole machine -/

/-- SHDN and FLT are the only ways into the halted state; entry keeps every other register, FLT saves FAULTED and FINFO,
and the registers can still be read (R216). -/
def Obligations.OnlyShdnAndFltHalt : Prop :=
  ∀ s t : State, step s = .next t → s.halted = false → t.halted = true →
    (∀ idx, exec (.rds idx) t = .next { t with rdata := readRegister t idx }) ∧
    ∃ x rest, s.pending = x :: rest ∧ x.reset = false ∧
      ((decode s.params.wA x.cmd = .instr .shdn ∧
        t = { s with
          pending := t.pending, side := t.side, rdata := 0
          muted := true, halted := true, events := [.stop, .mute true] }) ∨
      ∃ info, decode s.params.wA x.cmd = .instr (.flt info) ∧
        t = { s with
          pending := t.pending, side := t.side, rdata := 0
          muted := true, halted := true, faulted := true, finfo := info
          events := [.stop, .mute true, .log .runtimeFault info] })

/-- From any running state `shdn` emits STOP and MUTE(1), and no later step before reset emits STOP or MUTE (the spec's own inference, R189). -/
def Obligations.SilentAfterShutdown : Prop :=
  ∀ (s : State) (x : PortInput) (rest : List PortInput), s.initialised = true → s.halted = false →
    s.pending = x :: rest → x.reset = false → decode s.params.wA x.cmd = .instr .shdn →
    ∃ t, step s = .next t ∧ t.events = [.stop, .mute true] ∧
      ∀ k, NoResetIn k t → ∀ e ∈ eventTrace k t, stopsOrMutes e = false

/-- On every run from reset that ends halted, the last MUTE event is MUTE(1); and MUTED is always the last value commanded,
1 before any command (the spec's own inference, R190, with R32). -/
def Obligations.LastMuteOfAHaltedRun : Prop :=
  ∀ (p : Params) (c : Cfg) (side : SideInputs) (xs : List PortInput) (k : Nat) (t : State),
    NoResetIn k (State.afterReset p c side xs) → runSteps k (State.afterReset p c side xs) = .next t →
    (t.halted = true → lastMute (eventTrace k (State.afterReset p c side xs)) = some true) ∧
    t.muted = (lastMute (eventTrace k (State.afterReset p c side xs))).getD true

/-- In a step without reset, MUTED becomes the value of the step's last MUTE event and keeps its value without one; only
the spin-up start unmutes, and only halting mutes (R32, R190). -/
def Obligations.MuteWritesCarryEvents : Prop :=
  ∀ (s t : State) (x : PortInput) (rest : List PortInput), s.pending = x :: rest → x.reset = false →
    step s = .next t →
    t.muted = (lastMute t.events).getD s.muted ∧
    (s.muted = true → t.muted = false → s.state = .spinup ∧ s.spin = false ∧ t.spin = true) ∧
    (s.muted = false → t.muted = true → s.halted = false ∧ t.halted = true)

/-- In a step without reset, STATE changes only by ASM or TICK, never to SPINUP, and from SPINUP only to IDLE (R23,
R143, R146). -/
def Obligations.StateChangesOnlyByAsmAndTick : Prop :=
  ∀ (s t : State) (x : PortInput) (rest : List PortInput), s.pending = x :: rest → x.reset = false →
    step s = .next t → t.state ≠ s.state →
    (∃ i, decode s.params.wA x.cmd = .instr i ∧ drivesAudio i = true) ∧ s.halted = false ∧
    t.state ≠ .spinup ∧ (s.state = .spinup → t.state = .idle)

/-- In a step without reset, BUSY changes only by a classify cycle, and a TICK in SPINUP is none; a reset writes 0 (R24,
R180). -/
def Obligations.BusyChangesOnlyByClassify : Prop :=
  ∀ (s t : State) (x : PortInput) (rest : List PortInput), s.pending = x :: rest → step s = .next t →
    (x.reset = true → t.busy = false) ∧
    (x.reset = false → t.busy ≠ s.busy →
      (∃ i, decode s.params.wA x.cmd = .instr i ∧ classifies i = true ∧
        (drivesAudio i = true → s.state ≠ .spinup)) ∧ s.halted = false)

/-- FAULTED and FINFO: FLT on a running block sets FAULTED and stores its INFO; nothing else but reset writes either, and
only reset clears FAULTED (R34, R35). -/
def Obligations.FaultRegistersOnlyByFlt : Prop :=
  ∀ (s t : State) (x : PortInput) (rest : List PortInput), s.pending = x :: rest → step s = .next t →
    (x.reset = true → t.faulted = false ∧ t.finfo = 0) ∧
    (x.reset = false → s.faulted = true → t.faulted = true) ∧
    (∀ info, x.reset = false → decode s.params.wA x.cmd = .instr (.flt info) → s.halted = false →
      t.faulted = true ∧ t.finfo = info) ∧
    (x.reset = false → t.faulted ≠ s.faulted ∨ t.finfo ≠ s.finfo →
      ∃ info, decode s.params.wA x.cmd = .instr (.flt info) ∧ s.halted = false)

/-- ILLEGAL is set by an illegal word on a running block, is sticky, and only reset clears it (R36). -/
def Obligations.IllegalIsSticky : Prop :=
  ∀ (s t : State) (x : PortInput) (rest : List PortInput), s.pending = x :: rest → step s = .next t →
    (x.reset = true → t.illegal = false) ∧
    (x.reset = false → s.illegal = true → t.illegal = true) ∧
    (x.reset = false → s.illegal = false →
      (t.illegal = true ↔ legal s.params.wA x.cmd = false ∧ s.halted = false))

/-- In a step without reset, TCHG changes only by a transition between IDLE and ACCESS, to the step's time, and the hold
is armed (R29, R30, R146). -/
def Obligations.TchgIsTheTransitionTime : Prop :=
  ∀ (s t : State) (x : PortInput) (rest : List PortInput), s.pending = x :: rest → x.reset = false →
    step s = .next t →
    (t.tchg ≠ s.tchg → t.tchg = t.side.now ∧ s.state ≠ .spinup ∧ t.state ≠ s.state) ∧
    (s.state ≠ .spinup → t.state ≠ s.state → t.tchg = t.side.now ∧ t.hold = true) ∧
    (s.hold = false → t.hold = true → s.state ≠ .spinup ∧ t.state ≠ s.state)

/-- In a step without reset, LAST changes only by a classify cycle on a running block, and to the step's time (R28, R112,
R113), as the model samples it (log 4). -/
def Obligations.LastChangesToNow : Prop :=
  ∀ (s t : State) (x : PortInput) (rest : List PortInput), s.pending = x :: rest → x.reset = false →
    step s = .next t → t.last ≠ s.last →
    t.last = (sampleSide s.params x.side).now ∧ s.halted = false ∧
    ∃ i, decode s.params.wA x.cmd = .instr i ∧ classifies i = true

/-- Every LOG of a step has the argument R211 gives its code: an unavailable sample's code, a non-zero CFG_WARN, an illegal
word's OP, or an FLT's INFO. -/
def Obligations.LogArguments : Prop :=
  ∀ (s t : State) (code : LogCode) (arg : Info), step s = .next t → Event.log code arg ∈ t.events →
    ∃ x rest, s.pending = x :: rest ∧ x.reset = false ∧
      match code with
      | .sampleUnavailable => ∃ smp, arg = sampleArg smp ∧ libOk x.side smp = false
      | .configInvalid => arg = (cfgWarn s.cfg).setWidth 16 ∧ cfgWarn s.cfg ≠ 0
      | .illegalCommand => arg = (x.cmd.extractLsb 31 28).setWidth 16 ∧ legal s.params.wA x.cmd = false
      | .runtimeFault => decode s.params.wA x.cmd = .instr (.flt arg)

/-- `rdata` is the value read if the step was an RDS and 0 after every other step, and the level outputs are the
registers (R39). -/
def Obligations.RdataAndLevelOutputs : Prop :=
  ∀ (s t : State) (x : PortInput) (rest : List PortInput), s.pending = x :: rest → step s = .next t →
    outputs t = {
      busyOut := t.busy
      stateOut := match t.state with | .spinup => 0b00 | .idle => 0b01 | .access => 0b10
      mutedOut := t.muted
      haltedOut := t.halted
      rdata := t.rdata } ∧
    (∀ idx, x.reset = false → decode s.params.wA x.cmd = .instr (.rds idx) → t.rdata = readRegister s idx) ∧
    ((x.reset = true ∨ ∀ idx, decode s.params.wA x.cmd ≠ .instr (.rds idx)) → t.rdata = 0)

/-- The invariants of R43 hold after every step from a state that meets them. -/
def Obligations.StepKeepsInvariants : Prop := ∀ s t : State, Inv s → step s = .next t → Inv t

/-- The invariants of R43 hold after reset, for every width, configuration and input sequence. -/
def Obligations.ResetMeetsInvariants : Prop :=
  ∀ (p : Params) (c : Cfg) (side : SideInputs) (xs : List PortInput), Inv (State.afterReset p c side xs)

/-- Every step keeps every register, configuration field and time within its width (R8, R20, R21, R27).
That a wider input is taken modulo its port's width is the model's (log 4). -/
def Obligations.StepKeepsWidths : Prop := ∀ s t : State, InWidths s → step s = .next t → InWidths t

/-- Every register, configuration field and time is within its width after a step with reset, whatever the state before
it; and so it is in a reset state whose configuration and time fit. That a wider input is taken modulo its port's width is
the model's (log 4). -/
def Obligations.ResetMeetsWidths : Prop :=
  (∀ (p : Params) (c : Cfg) (side : SideInputs) (xs : List PortInput), CfgInWidths p c → side.now.toNat < 2 ^ p.wT →
    InWidths (State.afterReset p c side xs)) ∧
  ∀ (s t : State) (x : PortInput) (rest : List PortInput), s.pending = x :: rest → x.reset = true →
    step s = .next t → InWidths t

/-- Every command completes, in every state; and after the first reset every step with an input presented, legal word or
not, answers a next state, takes exactly that input, and keeps the block's widths (R210, R255, R67). The input queue, the
sampled side inputs and the widths as fields of State are the model's own (log 1, log 3, log 4). -/
def Obligations.EveryStepCompletes : Prop :=
  (∀ (i : Instr) (s : State), ∃ t, exec i s = .next t) ∧
  ∀ (s : State) (x : PortInput) (rest : List PortInput), s.pending = x :: rest → s.initialised = true →
    ∃ t, step s = .next t ∧ t.pending = rest ∧ t.side = { x.side with now := lowBits s.params.wT x.side.now } ∧
      t.params = s.params ∧ t.initialised = true
end

