-- ==== Sys2Proof/Laws/State.lean ====
section
/-! SUPPORT. One lemma for each field of State after each of its updates, true by `rfl`: emitting an event, commanding
the mute control, the start of a step, and the state a reset leaves. -/

namespace Sys2Proof.Machine

/-! ## `emit` -/

@[simp] theorem emit_state (s : State) (e : Event) : (s.emit e).state = s.state := rfl
@[simp] theorem emit_busy (s : State) (e : Event) : (s.emit e).busy = s.busy := rfl
@[simp] theorem emit_dcnt (s : State) (e : Event) : (s.emit e).dcnt = s.dcnt := rfl
@[simp] theorem emit_scnt (s : State) (e : Event) : (s.emit e).scnt = s.scnt := rfl
@[simp] theorem emit_last (s : State) (e : Event) : (s.emit e).last = s.last := rfl
@[simp] theorem emit_tchg (s : State) (e : Event) : (s.emit e).tchg = s.tchg := rfl
@[simp] theorem emit_hold (s : State) (e : Event) : (s.emit e).hold = s.hold := rfl
@[simp] theorem emit_spin (s : State) (e : Event) : (s.emit e).spin = s.spin := rfl
@[simp] theorem emit_muted (s : State) (e : Event) : (s.emit e).muted = s.muted := rfl
@[simp] theorem emit_halted (s : State) (e : Event) : (s.emit e).halted = s.halted := rfl
@[simp] theorem emit_faulted (s : State) (e : Event) : (s.emit e).faulted = s.faulted := rfl
@[simp] theorem emit_finfo (s : State) (e : Event) : (s.emit e).finfo = s.finfo := rfl
@[simp] theorem emit_illegal (s : State) (e : Event) : (s.emit e).illegal = s.illegal := rfl
@[simp] theorem emit_cfg (s : State) (e : Event) : (s.emit e).cfg = s.cfg := rfl
@[simp] theorem emit_params (s : State) (e : Event) : (s.emit e).params = s.params := rfl
@[simp] theorem emit_events (s : State) (e : Event) : (s.emit e).events = s.events ++ [e] := rfl
@[simp] theorem emit_rdata (s : State) (e : Event) : (s.emit e).rdata = s.rdata := rfl
@[simp] theorem emit_side (s : State) (e : Event) : (s.emit e).side = s.side := rfl
@[simp] theorem emit_pending (s : State) (e : Event) : (s.emit e).pending = s.pending := rfl
@[simp] theorem emit_initialised (s : State) (e : Event) : (s.emit e).initialised = s.initialised := rfl

/-! ## `commandMute` -/

@[simp] theorem commandMute_state (s : State) (b : Bool) : (s.commandMute b).state = s.state := rfl
@[simp] theorem commandMute_busy (s : State) (b : Bool) : (s.commandMute b).busy = s.busy := rfl
@[simp] theorem commandMute_dcnt (s : State) (b : Bool) : (s.commandMute b).dcnt = s.dcnt := rfl
@[simp] theorem commandMute_scnt (s : State) (b : Bool) : (s.commandMute b).scnt = s.scnt := rfl
@[simp] theorem commandMute_last (s : State) (b : Bool) : (s.commandMute b).last = s.last := rfl
@[simp] theorem commandMute_tchg (s : State) (b : Bool) : (s.commandMute b).tchg = s.tchg := rfl
@[simp] theorem commandMute_hold (s : State) (b : Bool) : (s.commandMute b).hold = s.hold := rfl
@[simp] theorem commandMute_spin (s : State) (b : Bool) : (s.commandMute b).spin = s.spin := rfl
@[simp] theorem commandMute_muted (s : State) (b : Bool) : (s.commandMute b).muted = b := rfl
@[simp] theorem commandMute_halted (s : State) (b : Bool) : (s.commandMute b).halted = s.halted := rfl
@[simp] theorem commandMute_faulted (s : State) (b : Bool) : (s.commandMute b).faulted = s.faulted := rfl
@[simp] theorem commandMute_finfo (s : State) (b : Bool) : (s.commandMute b).finfo = s.finfo := rfl
@[simp] theorem commandMute_illegal (s : State) (b : Bool) : (s.commandMute b).illegal = s.illegal := rfl
@[simp] theorem commandMute_cfg (s : State) (b : Bool) : (s.commandMute b).cfg = s.cfg := rfl
@[simp] theorem commandMute_params (s : State) (b : Bool) : (s.commandMute b).params = s.params := rfl
@[simp] theorem commandMute_events (s : State) (b : Bool) : (s.commandMute b).events = s.events ++ [.mute b] := rfl
@[simp] theorem commandMute_rdata (s : State) (b : Bool) : (s.commandMute b).rdata = s.rdata := rfl
@[simp] theorem commandMute_side (s : State) (b : Bool) : (s.commandMute b).side = s.side := rfl
@[simp] theorem commandMute_pending (s : State) (b : Bool) : (s.commandMute b).pending = s.pending := rfl
@[simp] theorem commandMute_initialised (s : State) (b : Bool) : (s.commandMute b).initialised = s.initialised := rfl

/-! ## `enterHalt` -/

@[simp] theorem enterHalt_state (s : State) : (enterHalt s).state = s.state := rfl
@[simp] theorem enterHalt_busy (s : State) : (enterHalt s).busy = s.busy := rfl
@[simp] theorem enterHalt_dcnt (s : State) : (enterHalt s).dcnt = s.dcnt := rfl
@[simp] theorem enterHalt_scnt (s : State) : (enterHalt s).scnt = s.scnt := rfl
@[simp] theorem enterHalt_last (s : State) : (enterHalt s).last = s.last := rfl
@[simp] theorem enterHalt_tchg (s : State) : (enterHalt s).tchg = s.tchg := rfl
@[simp] theorem enterHalt_hold (s : State) : (enterHalt s).hold = s.hold := rfl
@[simp] theorem enterHalt_spin (s : State) : (enterHalt s).spin = s.spin := rfl
@[simp] theorem enterHalt_muted (s : State) : (enterHalt s).muted = true := rfl
@[simp] theorem enterHalt_halted (s : State) : (enterHalt s).halted = true := rfl
@[simp] theorem enterHalt_faulted (s : State) : (enterHalt s).faulted = s.faulted := rfl
@[simp] theorem enterHalt_finfo (s : State) : (enterHalt s).finfo = s.finfo := rfl
@[simp] theorem enterHalt_illegal (s : State) : (enterHalt s).illegal = s.illegal := rfl
@[simp] theorem enterHalt_cfg (s : State) : (enterHalt s).cfg = s.cfg := rfl
@[simp] theorem enterHalt_params (s : State) : (enterHalt s).params = s.params := rfl
@[simp] theorem enterHalt_events (s : State) : (enterHalt s).events = s.events ++ [.stop] ++ [.mute true] := rfl
@[simp] theorem enterHalt_rdata (s : State) : (enterHalt s).rdata = s.rdata := rfl
@[simp] theorem enterHalt_side (s : State) : (enterHalt s).side = s.side := rfl
@[simp] theorem enterHalt_pending (s : State) : (enterHalt s).pending = s.pending := rfl
@[simp] theorem enterHalt_initialised (s : State) : (enterHalt s).initialised = s.initialised := rfl

/-! ## `beginStep` -/

@[simp] theorem beginStep_state (x : PortInput) (s : State) : (beginStep x s).state = s.state := rfl
@[simp] theorem beginStep_busy (x : PortInput) (s : State) : (beginStep x s).busy = s.busy := rfl
@[simp] theorem beginStep_dcnt (x : PortInput) (s : State) : (beginStep x s).dcnt = s.dcnt := rfl
@[simp] theorem beginStep_scnt (x : PortInput) (s : State) : (beginStep x s).scnt = s.scnt := rfl
@[simp] theorem beginStep_last (x : PortInput) (s : State) : (beginStep x s).last = s.last := rfl
@[simp] theorem beginStep_tchg (x : PortInput) (s : State) : (beginStep x s).tchg = s.tchg := rfl
@[simp] theorem beginStep_hold (x : PortInput) (s : State) : (beginStep x s).hold = s.hold := rfl
@[simp] theorem beginStep_spin (x : PortInput) (s : State) : (beginStep x s).spin = s.spin := rfl
@[simp] theorem beginStep_muted (x : PortInput) (s : State) : (beginStep x s).muted = s.muted := rfl
@[simp] theorem beginStep_halted (x : PortInput) (s : State) : (beginStep x s).halted = s.halted := rfl
@[simp] theorem beginStep_faulted (x : PortInput) (s : State) : (beginStep x s).faulted = s.faulted := rfl
@[simp] theorem beginStep_finfo (x : PortInput) (s : State) : (beginStep x s).finfo = s.finfo := rfl
@[simp] theorem beginStep_illegal (x : PortInput) (s : State) : (beginStep x s).illegal = s.illegal := rfl
@[simp] theorem beginStep_cfg (x : PortInput) (s : State) : (beginStep x s).cfg = s.cfg := rfl
@[simp] theorem beginStep_params (x : PortInput) (s : State) : (beginStep x s).params = s.params := rfl
@[simp] theorem beginStep_events (x : PortInput) (s : State) : (beginStep x s).events = [] := rfl
@[simp] theorem beginStep_rdata (x : PortInput) (s : State) : (beginStep x s).rdata = 0 := rfl
@[simp] theorem beginStep_side (x : PortInput) (s : State) : (beginStep x s).side = sampleSide s.params x.side := rfl
@[simp] theorem beginStep_pending (x : PortInput) (s : State) : (beginStep x s).pending = s.pending := rfl
@[simp] theorem beginStep_initialised (x : PortInput) (s : State) : (beginStep x s).initialised = s.initialised := rfl

/-! ## Reset -/

/-- A step with reset asserted leaves the state `State.afterReset` describes (R240). -/
theorem resetBlock_eq (x : PortInput) (s : State) :
    resetBlock x s
      = State.afterReset s.params (latchCfg s.params x.cfgPins) (sampleSide s.params x.side) s.pending := rfl

end Sys2Proof.Machine
end

