-- ==== Sys2Proof/Laws/Ops.lean ====
section
/-! SUPPORT. What each shared operation can do, said once: the fields it leaves alone, and for a step the cases there
are. -/

namespace Sys2Proof.Machine

/-! ## Values -/

theorem toNat_lowBits (n : Nat) {w : Nat} (v : BitVec w) : (lowBits n v).toNat = v.toNat % 2 ^ n := by
  have h : v.toNat % 2 ^ n < 2 ^ w := lt_of_le_of_lt (Nat.mod_le _ _) v.isLt
  simp [lowBits, Nat.mod_eq_of_lt h]

theorem lowBits_lt (n : Nat) {w : Nat} (v : BitVec w) : (lowBits n v).toNat < 2 ^ n := by
  rw [toNat_lowBits]
  exact Nat.mod_lt _ (by positivity)

theorem lowBits_of_lt (n : Nat) {w : Nat} (v : BitVec w) (h : v.toNat < 2 ^ n) : lowBits n v = v := by
  apply BitVec.eq_of_toNat_eq
  rw [toNat_lowBits, Nat.mod_eq_of_lt h]

/-! ## Asking for a sample -/

/-- Asking for a sample emits one event and changes nothing else. -/
theorem playOrLog_eq (s : State) (smp : Sample) (loop : Bool) :
    s.playOrLog smp loop = s.emit (if libOk s.side smp then .play smp loop else unavailable smp) := by
  unfold State.playOrLog
  split <;> rfl

/-! ## The HALTED filter -/

theorem whenRunning_halted (f : State → State) {s : State} (h : s.halted = true) : whenRunning f s = s := by
  simp [whenRunning, h]

theorem whenRunning_running (f : State → State) {s : State} (h : s.halted = false) : whenRunning f s = f s := by
  simp [whenRunning, h]

/-- Under the HALTED filter, either nothing happens or the block runs and the effect happens (R186). -/
theorem whenRunning_cases (f : State → State) (s : State) :
    (s.halted = true ∧ whenRunning f s = s) ∨ (s.halted = false ∧ whenRunning f s = f s) := by
  cases h : s.halted
  · exact .inr ⟨rfl, whenRunning_running f h⟩
  · exact .inl ⟨rfl, whenRunning_halted f h⟩

/-! ## The classifier -/

/-- The three moves of a classify cycle's first half: past the timeout the counters go to 0 with LAST (R112). -/
theorem timeoutReset_cases (s : State) :
    (timeoutExceeded s = true ∧ timeoutReset s = { s with dcnt := 0, scnt := 0, last := s.side.now }) ∨
    (timeoutExceeded s = false ∧ timeoutReset s = s) := by
  unfold timeoutReset
  cases timeoutExceeded s <;> simp

/-- A sample counts into DCNT, or into SCNT, or changes nothing (R113). -/
theorem countSample_cases (v : Option BusSample) (s : State) :
    (∃ x, v = some x ∧ x.addr = s.cfg.dataPort ∧
      countSample v s = { s with dcnt := countUp s s.dcnt, last := s.side.now }) ∨
    (∃ x, v = some x ∧ x.addr ≠ s.cfg.dataPort ∧ x.addr = s.cfg.statusPort ∧
      countSample v s = { s with scnt := countUp s s.scnt, last := s.side.now }) ∨
    ((∀ x, v = some x → x.addr ≠ s.cfg.dataPort ∧ x.addr ≠ s.cfg.statusPort) ∧ countSample v s = s) := by
  cases v with
  | none => exact .inr (.inr ⟨by simp, rfl⟩)
  | some x =>
    by_cases hd : x.addr = s.cfg.dataPort
    · exact .inl ⟨x, rfl, hd, by simp [countSample, hd]⟩
    · by_cases hs : x.addr = s.cfg.statusPort
      · refine .inr (.inl ⟨x, rfl, hd, hs, ?_⟩)
        rw [hs] at hd
        simp [countSample, hs, hd]
      · exact .inr (.inr ⟨by simp [hd, hs], by simp [countSample, hd, hs]⟩)

/-- A classify cycle writes DCNT, SCNT, LAST and BUSY, and no other register (R111). -/
theorem classify_frame (v : Option BusSample) (s : State) :
    ∃ d c l b, classify v s = { s with dcnt := d, scnt := c, last := l, busy := b } := by
  unfold classify
  rcases timeoutReset_cases s with ⟨-, h⟩ | ⟨-, h⟩ <;>
    rcases countSample_cases v (timeoutReset s) with ⟨_, -, -, g⟩ | ⟨_, -, -, -, g⟩ | ⟨-, g⟩ <;>
    (rw [g, h]; exact ⟨_, _, _, _, rfl⟩)

@[simp] theorem classify_state (v : Option BusSample) (s : State) : (classify v s).state = s.state := by
  obtain ⟨_, _, _, _, h⟩ := classify_frame v s
  rw [h]
@[simp] theorem classify_tchg (v : Option BusSample) (s : State) : (classify v s).tchg = s.tchg := by
  obtain ⟨_, _, _, _, h⟩ := classify_frame v s
  rw [h]
@[simp] theorem classify_hold (v : Option BusSample) (s : State) : (classify v s).hold = s.hold := by
  obtain ⟨_, _, _, _, h⟩ := classify_frame v s
  rw [h]
@[simp] theorem classify_spin (v : Option BusSample) (s : State) : (classify v s).spin = s.spin := by
  obtain ⟨_, _, _, _, h⟩ := classify_frame v s
  rw [h]
@[simp] theorem classify_muted (v : Option BusSample) (s : State) : (classify v s).muted = s.muted := by
  obtain ⟨_, _, _, _, h⟩ := classify_frame v s
  rw [h]
@[simp] theorem classify_halted (v : Option BusSample) (s : State) : (classify v s).halted = s.halted := by
  obtain ⟨_, _, _, _, h⟩ := classify_frame v s
  rw [h]
@[simp] theorem classify_faulted (v : Option BusSample) (s : State) : (classify v s).faulted = s.faulted := by
  obtain ⟨_, _, _, _, h⟩ := classify_frame v s
  rw [h]
@[simp] theorem classify_finfo (v : Option BusSample) (s : State) : (classify v s).finfo = s.finfo := by
  obtain ⟨_, _, _, _, h⟩ := classify_frame v s
  rw [h]
@[simp] theorem classify_illegal (v : Option BusSample) (s : State) : (classify v s).illegal = s.illegal := by
  obtain ⟨_, _, _, _, h⟩ := classify_frame v s
  rw [h]
@[simp] theorem classify_cfg (v : Option BusSample) (s : State) : (classify v s).cfg = s.cfg := by
  obtain ⟨_, _, _, _, h⟩ := classify_frame v s
  rw [h]
@[simp] theorem classify_params (v : Option BusSample) (s : State) : (classify v s).params = s.params := by
  obtain ⟨_, _, _, _, h⟩ := classify_frame v s
  rw [h]
@[simp] theorem classify_events (v : Option BusSample) (s : State) : (classify v s).events = s.events := by
  obtain ⟨_, _, _, _, h⟩ := classify_frame v s
  rw [h]
@[simp] theorem classify_rdata (v : Option BusSample) (s : State) : (classify v s).rdata = s.rdata := by
  obtain ⟨_, _, _, _, h⟩ := classify_frame v s
  rw [h]
@[simp] theorem classify_side (v : Option BusSample) (s : State) : (classify v s).side = s.side := by
  obtain ⟨_, _, _, _, h⟩ := classify_frame v s
  rw [h]
@[simp] theorem classify_pending (v : Option BusSample) (s : State) : (classify v s).pending = s.pending := by
  obtain ⟨_, _, _, _, h⟩ := classify_frame v s
  rw [h]
@[simp] theorem classify_initialised (v : Option BusSample) (s : State) : (classify v s).initialised = s.initialised := by
  obtain ⟨_, _, _, _, h⟩ := classify_frame v s
  rw [h]

/-! ## The state machine -/

/-- What follows the guard test: a transition, or the restart rule, after a log where the transition's sample is
unavailable (R146, R147, R148). -/
theorem afterGuard_cases (cur want : LoopState) (s : State) :
    (transitionDue cur want s = true ∧ libOk s.side (loopSample want) = true ∧
      afterGuard cur want s = takeTransition want s) ∨
    (transitionDue cur want s = true ∧ libOk s.side (loopSample want) = false ∧
      afterGuard cur want s = restartOnStop cur (s.emit (unavailable (loopSample want)))) ∨
    (transitionDue cur want s = false ∧ afterGuard cur want s = restartOnStop cur s) := by
  unfold afterGuard
  cases transitionDue cur want s <;> cases libOk s.side (loopSample want) <;> simp

/-- The restart rule emits at most one event (R148). -/
theorem restartOnStop_eq (cur : LoopState) (s : State) :
    restartOnStop cur s = { s with
      events := s.events ++
        (if s.side.sinkPlaying then [] else
          [if libOk s.side (loopSample cur) then .play (loopSample cur) true else unavailable (loopSample cur)]) } := by
  unfold restartOnStop
  rw [playOrLog_eq]
  cases s.side.sinkPlaying <;> simp [State.emit]

/-- The guard test writes HOLD and nothing else (R144). -/
theorem guardTest_eq (s : State) : guardTest s = { s with hold := s.hold && !delayElapsed s } := by
  unfold guardTest
  cases h : s.hold <;> cases delayElapsed s <;> simp [← h]

/-- The spin-up start in one record: its events in order, MUTED and SPIN (R141). -/
theorem spinUpStart_eq (s : State) :
    spinUpStart s = { s with
      muted := false
      spin := true
      events := s.events ++
        (if cfgWarn s.cfg ≠ 0 then [.log .configInvalid ((cfgWarn s.cfg).setWidth 16)] else []) ++
        [.mute false] ++
        [if s.side.okSpinup then .play .spinup false else unavailable .spinup] } := by
  unfold spinUpStart warnConfig
  rw [playOrLog_eq]
  by_cases h : cfgWarn s.cfg = 0
  · simp [h, State.emit, State.commandMute, libOk]
  · simp only [ne_eq, h, not_false_eq_true, if_true]
    simp [State.emit, State.commandMute, libOk]

/-- SPINUP → IDLE in one record (R143). -/
theorem spinUpDone_eq (s : State) :
    spinUpDone s = { s with
      state := .idle
      events := s.events ++ [if s.side.okIdle then .play .idle true else unavailable .idle] } := by
  unfold spinUpDone
  rw [playOrLog_eq]
  rfl

/-- A step in a looping state writes STATE, TCHG and HOLD, emits, and changes nothing else (R144 to R148). -/
theorem loopStep_frame (cur : LoopState) (b : Bool) (s : State) :
    ∃ st tc ho es, loopStep cur b s = { s with state := st, tchg := tc, hold := ho, events := es } := by
  unfold loopStep
  rcases afterGuard_cases cur (wanted b) (guardTest s) with ⟨-, -, h⟩ | ⟨-, -, h⟩ | ⟨-, h⟩ <;>
    rw [h, guardTest_eq]
  · exact ⟨_, _, _, _, rfl⟩
  · rw [restartOnStop_eq]
    exact ⟨_, _, _, _, rfl⟩
  · rw [restartOnStop_eq]
    exact ⟨_, _, _, _, rfl⟩

/-- A state-machine step writes STATE, TCHG, HOLD, SPIN and MUTED, emits, and changes nothing else (R149). -/
theorem asmStep_frame (b : Bool) (s : State) :
    ∃ st tc ho sp mu es,
      asmStep b s = { s with state := st, tchg := tc, hold := ho, spin := sp, muted := mu, events := es } := by
  cases hs : s.state
  · cases hp : s.spin
    · rw [show asmStep b s = spinUpStart s by simp [asmStep, hs, hp], spinUpStart_eq]
      exact ⟨_, _, _, _, _, _, rfl⟩
    · cases hq : s.side.sinkPlaying
      · rw [show asmStep b s = spinUpDone s by simp [asmStep, hs, hp, hq], spinUpDone_eq]
        exact ⟨_, _, _, _, _, _, rfl⟩
      · rw [show asmStep b s = s by simp [asmStep, hs, hp, hq]]
        exact ⟨_, _, _, _, _, _, rfl⟩
  · obtain ⟨_, _, _, _, h⟩ := loopStep_frame .idle b s
    rw [show asmStep b s = loopStep .idle b s by simp [asmStep, hs], h]
    exact ⟨_, _, _, _, _, _, rfl⟩
  · obtain ⟨_, _, _, _, h⟩ := loopStep_frame .access b s
    rw [show asmStep b s = loopStep .access b s by simp [asmStep, hs], h]
    exact ⟨_, _, _, _, _, _, rfl⟩

@[simp] theorem asmStep_busy (b : Bool) (s : State) : (asmStep b s).busy = s.busy := by
  obtain ⟨_, _, _, _, _, _, h⟩ := asmStep_frame b s
  rw [h]
@[simp] theorem asmStep_dcnt (b : Bool) (s : State) : (asmStep b s).dcnt = s.dcnt := by
  obtain ⟨_, _, _, _, _, _, h⟩ := asmStep_frame b s
  rw [h]
@[simp] theorem asmStep_scnt (b : Bool) (s : State) : (asmStep b s).scnt = s.scnt := by
  obtain ⟨_, _, _, _, _, _, h⟩ := asmStep_frame b s
  rw [h]
@[simp] theorem asmStep_last (b : Bool) (s : State) : (asmStep b s).last = s.last := by
  obtain ⟨_, _, _, _, _, _, h⟩ := asmStep_frame b s
  rw [h]
@[simp] theorem asmStep_halted (b : Bool) (s : State) : (asmStep b s).halted = s.halted := by
  obtain ⟨_, _, _, _, _, _, h⟩ := asmStep_frame b s
  rw [h]
@[simp] theorem asmStep_faulted (b : Bool) (s : State) : (asmStep b s).faulted = s.faulted := by
  obtain ⟨_, _, _, _, _, _, h⟩ := asmStep_frame b s
  rw [h]
@[simp] theorem asmStep_finfo (b : Bool) (s : State) : (asmStep b s).finfo = s.finfo := by
  obtain ⟨_, _, _, _, _, _, h⟩ := asmStep_frame b s
  rw [h]
@[simp] theorem asmStep_illegal (b : Bool) (s : State) : (asmStep b s).illegal = s.illegal := by
  obtain ⟨_, _, _, _, _, _, h⟩ := asmStep_frame b s
  rw [h]
@[simp] theorem asmStep_cfg (b : Bool) (s : State) : (asmStep b s).cfg = s.cfg := by
  obtain ⟨_, _, _, _, _, _, h⟩ := asmStep_frame b s
  rw [h]
@[simp] theorem asmStep_params (b : Bool) (s : State) : (asmStep b s).params = s.params := by
  obtain ⟨_, _, _, _, _, _, h⟩ := asmStep_frame b s
  rw [h]
@[simp] theorem asmStep_rdata (b : Bool) (s : State) : (asmStep b s).rdata = s.rdata := by
  obtain ⟨_, _, _, _, _, _, h⟩ := asmStep_frame b s
  rw [h]
@[simp] theorem asmStep_side (b : Bool) (s : State) : (asmStep b s).side = s.side := by
  obtain ⟨_, _, _, _, _, _, h⟩ := asmStep_frame b s
  rw [h]
@[simp] theorem asmStep_pending (b : Bool) (s : State) : (asmStep b s).pending = s.pending := by
  obtain ⟨_, _, _, _, _, _, h⟩ := asmStep_frame b s
  rw [h]
@[simp] theorem asmStep_initialised (b : Bool) (s : State) : (asmStep b s).initialised = s.initialised := by
  obtain ⟨_, _, _, _, _, _, h⟩ := asmStep_frame b s
  rw [h]

/-! ## The tick -/

/-- In SPINUP a tick is a state-machine step whose busy level is not read (R180). -/
theorem tickStep_spinup (v : Option BusSample) {s : State} (h : s.state = .spinup) :
    tickStep v s = asmStep false s := by
  simp [tickStep, h]

/-- Outside SPINUP a tick is a classify cycle and then a state-machine step driven by BUSY (R180). -/
theorem tickStep_looping (v : Option BusSample) {s : State} (h : s.state ≠ .spinup) :
    tickStep v s = asmStep (classify v s).busy (classify v s) := by
  unfold tickStep
  split
  · contradiction
  · rfl
  · rfl

/-- A tick writes what CLS and ASM write, and nothing else (R180). -/
theorem tickStep_frame (v : Option BusSample) (s : State) :
    ∃ d c l bu st tc ho sp mu es, tickStep v s = { s with
      dcnt := d, scnt := c, last := l, busy := bu
      state := st, tchg := tc, hold := ho, spin := sp, muted := mu, events := es } := by
  by_cases h : s.state = .spinup
  · obtain ⟨_, _, _, _, _, _, ha⟩ := asmStep_frame false s
    rw [tickStep_spinup v h, ha]
    exact ⟨_, _, _, _, _, _, _, _, _, _, rfl⟩
  · obtain ⟨_, _, _, _, hc⟩ := classify_frame v s
    obtain ⟨_, _, _, _, _, _, ha⟩ := asmStep_frame (classify v s).busy (classify v s)
    rw [tickStep_looping v h, ha, hc]
    exact ⟨_, _, _, _, _, _, _, _, _, _, rfl⟩

@[simp] theorem tickStep_halted (v : Option BusSample) (s : State) : (tickStep v s).halted = s.halted := by
  obtain ⟨_, _, _, _, _, _, _, _, _, _, h⟩ := tickStep_frame v s
  rw [h]
@[simp] theorem tickStep_faulted (v : Option BusSample) (s : State) : (tickStep v s).faulted = s.faulted := by
  obtain ⟨_, _, _, _, _, _, _, _, _, _, h⟩ := tickStep_frame v s
  rw [h]
@[simp] theorem tickStep_finfo (v : Option BusSample) (s : State) : (tickStep v s).finfo = s.finfo := by
  obtain ⟨_, _, _, _, _, _, _, _, _, _, h⟩ := tickStep_frame v s
  rw [h]
@[simp] theorem tickStep_illegal (v : Option BusSample) (s : State) : (tickStep v s).illegal = s.illegal := by
  obtain ⟨_, _, _, _, _, _, _, _, _, _, h⟩ := tickStep_frame v s
  rw [h]
@[simp] theorem tickStep_cfg (v : Option BusSample) (s : State) : (tickStep v s).cfg = s.cfg := by
  obtain ⟨_, _, _, _, _, _, _, _, _, _, h⟩ := tickStep_frame v s
  rw [h]
@[simp] theorem tickStep_params (v : Option BusSample) (s : State) : (tickStep v s).params = s.params := by
  obtain ⟨_, _, _, _, _, _, _, _, _, _, h⟩ := tickStep_frame v s
  rw [h]
@[simp] theorem tickStep_rdata (v : Option BusSample) (s : State) : (tickStep v s).rdata = s.rdata := by
  obtain ⟨_, _, _, _, _, _, _, _, _, _, h⟩ := tickStep_frame v s
  rw [h]
@[simp] theorem tickStep_side (v : Option BusSample) (s : State) : (tickStep v s).side = s.side := by
  obtain ⟨_, _, _, _, _, _, _, _, _, _, h⟩ := tickStep_frame v s
  rw [h]
@[simp] theorem tickStep_pending (v : Option BusSample) (s : State) : (tickStep v s).pending = s.pending := by
  obtain ⟨_, _, _, _, _, _, _, _, _, _, h⟩ := tickStep_frame v s
  rw [h]
@[simp] theorem tickStep_initialised (v : Option BusSample) (s : State) : (tickStep v s).initialised = s.initialised := by
  obtain ⟨_, _, _, _, _, _, _, _, _, _, h⟩ := tickStep_frame v s
  rw [h]

/-! ## The step -/

/-- A step needs an input, and consumes the oldest one (R7, R67). -/
theorem step_cons {s : State} {x : PortInput} {rest : List PortInput} (h : s.pending = x :: rest) :
    step s = cycle x { s with pending := rest } := by
  simp [step, takeInput, h]

theorem step_nil {s : State} (h : s.pending = []) : step s = .refused .noCommandPresented := by
  simp [step, takeInput, h]

/-- A step that answers a next state took an input. -/
theorem step_next_input {s t : State} (h : step s = .next t) :
    ∃ x rest, s.pending = x :: rest ∧ cycle x { s with pending := rest } = .next t := by
  cases hp : s.pending with
  | nil => rw [step_nil hp] at h; cases h
  | cons x rest => exact ⟨x, rest, rfl, by rw [← step_cons hp]; exact h⟩

theorem cycle_reset {x : PortInput} (s : State) (h : x.reset = true) : cycle x s = .next (resetBlock x s) := by
  simp [cycle, h]

/-- What a cycle that answers a next state did: a reset, an illegal word, or a decoded command (R188, R215, R242). -/
theorem cycle_next_cases {x : PortInput} {s t : State} (h : cycle x s = .next t) :
    (x.reset = true ∧ t = resetBlock x s) ∨
    (x.reset = false ∧ s.initialised = true ∧ (∃ e, decode s.params.wA x.cmd = .illegal e) ∧
      t = illegalWord x.cmd (beginStep x s)) ∨
    (x.reset = false ∧ s.initialised = true ∧
      ∃ i, decode s.params.wA x.cmd = .instr i ∧ exec i (beginStep x s) = .next t) := by
  unfold cycle at h
  cases hr : x.reset
  · cases hi : s.initialised
    · simp [hr, hi] at h
    · cases hd : decode s.params.wA x.cmd with
      | illegal e =>
        simp only [hr, hi, hd] at h
        cases h
        exact .inr (.inl ⟨rfl, rfl, ⟨e, rfl⟩, rfl⟩)
      | instr i =>
        simp only [hr, hi, hd] at h
        exact .inr (.inr ⟨rfl, rfl, i, rfl, h⟩)
  · simp only [hr] at h
    cases h
    exact .inl ⟨rfl, rfl⟩

/-- The state a command leaves, in every state of the block. -/
def execState (i : Instr) (s : State) : State :=
  match i with
  | .nop => s
  | .cls => whenRunning (classify none) s
  | .clsS k a => whenRunning (classify (some { kind := k, addr := a })) s
  | .asm b => whenRunning (asmStep b) s
  | .tick => whenRunning (tickStep none) s
  | .tickS k a => whenRunning (tickStep (some { kind := k, addr := a })) s
  | .shdn => whenRunning enterHalt s
  | .flt info => whenRunning (faultShutdown info) s
  | .rds idx => { s with rdata := readRegister s idx }

/-- Every command completes (R210, R255). -/
theorem exec_eq_next (i : Instr) (s : State) : exec i s = .next (execState i s) := by
  cases i <;> rfl

end Sys2Proof.Machine
end

