-- ==== Sys2Proof/Laws/Conditions.lean ====
section
/-! SUPPORT. The conditions of a step as facts about numbers (R11, R12, R112, R115, R144), and what a classify cycle and a
state-machine step can do, in terms of them. -/

namespace Sys2Proof.Machine

/-! ## Conditions as numbers -/

theorem elapsed_toNat (s : State) (start : Time) : (elapsed s start).toNat = timeSince s start := by
  simp only [elapsed, toNat_lowBits, timeSince]

theorem timeoutExceeded_eq (s : State) : timeoutExceeded s = decide (GapExceeds s) := by
  simp only [timeoutExceeded, BitVec.lt_def, elapsed_toNat]

theorem exceedsThreshold_eq (s : State) (c : Count) :
    exceedsThreshold s c = decide (s.cfg.threshold.toNat < c.toNat) := by
  have h := s.cfg.threshold.isLt
  have e : s.cfg.threshold.toNat % 2 ^ 17 = s.cfg.threshold.toNat := Nat.mod_eq_of_lt (by omega)
  simp only [exceedsThreshold, BitVec.lt_def, BitVec.toNat_setWidth, e]

theorem delayElapsed_eq (s : State) : delayElapsed s = decide (s.cfg.minDelay.toNat ≤ timeSince s s.tchg) := by
  simp only [delayElapsed, BitVec.le_def, elapsed_toNat]

/-- A counter at or below the threshold is incremented exactly: W_C bits hold the sum (R27). -/
theorem countUp_exact (s : State) (n : Nat) (hn : n ≤ s.cfg.threshold.toNat)
    (hw : s.cfg.threshold.toNat < 2 ^ s.params.wTH) :
    countUp s (BitVec.ofNat 17 n) = BitVec.ofNat 17 (n + 1) := by
  have h16 := s.cfg.threshold.isLt
  have hc : 2 ^ s.params.wTH * 2 = 2 ^ s.params.wC := by unfold Params.wC; rw [pow_succ]
  have e : BitVec.ofNat 17 n + 1 = BitVec.ofNat 17 (n + 1) := by apply BitVec.eq_of_toNat_eq; simp
  unfold countUp
  rw [e]
  apply lowBits_of_lt
  rw [BitVec.toNat_ofNat, Nat.mod_eq_of_lt (by omega)]
  omega

/-- CFG_WARN is not 0 exactly if the threshold or the timeout is 0 (R22). -/
theorem cfgWarn_ne_zero (c : Cfg) : cfgWarn c ≠ 0 ↔ (c.threshold = 0 ∨ c.timeout = 0) := by
  unfold cfgWarn
  by_cases h1 : c.threshold = 0 <;> by_cases h2 : c.timeout = 0 <;>
    simp only [h1, h2, decide_true, decide_false] <;> decide

/-- Configuration inputs that fit their pins are latched unchanged (R241). -/
theorem latchCfg_of_inWidths {p : Params} {c : Cfg} (h : CfgInWidths p c) : latchCfg p c = c := by
  cases c
  unfold latchCfg
  congr 1
  · exact lowBits_of_lt _ _ h.dataPort_lt
  · exact lowBits_of_lt _ _ h.statusPort_lt
  · exact lowBits_of_lt _ _ h.threshold_lt
  · exact lowBits_of_lt _ _ h.timeout_lt
  · exact lowBits_of_lt _ _ h.minDelay_lt

/-! ## The classify cycle -/

/-- The counts a classify cycle's firing test sees, and the configuration it sees them under (R111). -/
theorem countSample_timeoutReset_cfg (v : Option BusSample) (s : State) :
    (countSample v (timeoutReset s)).cfg = s.cfg := by
  have h : (timeoutReset s).cfg = s.cfg := by
    rcases timeoutReset_cases s with ⟨-, e⟩ | ⟨-, e⟩ <;> rw [e]
  rcases countSample_cases v (timeoutReset s) with ⟨_, -, -, e⟩ | ⟨_, -, -, -, e⟩ | ⟨-, e⟩ <;> rw [e] <;> exact h

/-- After a classify cycle, from any state, both counters are at or below the threshold (R43 item 1, R115). -/
theorem classify_bounded (v : Option BusSample) (s : State) :
    (classify v s).dcnt.toNat ≤ s.cfg.threshold.toNat ∧ (classify v s).scnt.toNat ≤ s.cfg.threshold.toNat := by
  unfold classify fireAndPublish
  simp only [exceedsThreshold_eq, countSample_timeoutReset_cfg]
  constructor <;> split <;> simp_all

/-- A classify cycle leaves LAST or writes the current time to it (R112, R113). -/
theorem classify_last (v : Option BusSample) (s : State) :
    (classify v s).last = s.last ∨ (classify v s).last = s.side.now := by
  have h : (timeoutReset s).side = s.side ∧ ((timeoutReset s).last = s.last ∨ (timeoutReset s).last = s.side.now) := by
    rcases timeoutReset_cases s with ⟨-, e⟩ | ⟨-, e⟩ <;> rw [e] <;> simp
  unfold classify fireAndPublish
  rcases countSample_cases v (timeoutReset s) with ⟨_, -, -, e⟩ | ⟨_, -, -, -, e⟩ | ⟨-, e⟩ <;> rw [e] <;> simp [h]

/-! ## The state-machine step -/

theorem loopPlayback_injective {a b : LoopState} : loopPlayback a = loopPlayback b → a = b := by
  cases a <;> cases b <;> simp [loopPlayback]

theorem loopPlayback_ne_spinup (a : LoopState) : loopPlayback a ≠ .spinup := by
  cases a <;> simp [loopPlayback]

theorem asmStep_looping (b : Bool) (s : State) (cur : LoopState) (h : s.state = loopPlayback cur) :
    asmStep b s = afterGuard cur (wanted b) (guardTest s) := by
  cases cur <;> simp only [loopPlayback] at h <;> simp [asmStep, h, loopStep]

/-- The guard test leaves the hold clear exactly if the hold does not block a transition (R144). -/
theorem guardTest_hold (s : State) : (guardTest s).hold = false ↔ HoldOver s := by
  rw [guardTest_eq, delayElapsed_eq]
  unfold HoldOver
  cases s.hold <;> simp

/-- A transition is due after the guard test exactly if the busy level asks for the other state and the hold is over
(R145). -/
theorem transitionDue_guardTest (cur want : LoopState) (s : State) :
    transitionDue cur want (guardTest s) = true ↔ want ≠ cur ∧ HoldOver s := by
  unfold transitionDue
  rw [← guardTest_hold]
  simp

/-- Everything a state-machine step can do: the spin-up start, wait and end; a transition; or none (R141 to R149). -/
theorem asmStep_cases (b : Bool) (s : State) :
    (s.state = .spinup ∧ s.spin = false ∧ asmStep b s = spinUpStart s) ∨
    (s.state = .spinup ∧ s.spin = true ∧ s.side.sinkPlaying = true ∧ asmStep b s = s) ∨
    (s.state = .spinup ∧ s.spin = true ∧ s.side.sinkPlaying = false ∧ asmStep b s = spinUpDone s) ∨
    (∃ cur, s.state = loopPlayback cur ∧ wanted b ≠ cur ∧ HoldOver s ∧ libOk s.side (loopSample (wanted b)) = true ∧
      asmStep b s = takeTransition (wanted b) (guardTest s)) ∨
    (∃ cur, s.state = loopPlayback cur ∧ wanted b ≠ cur ∧ HoldOver s ∧ libOk s.side (loopSample (wanted b)) = false ∧
      asmStep b s = restartOnStop cur ((guardTest s).emit (unavailable (loopSample (wanted b))))) ∨
    (∃ cur, s.state = loopPlayback cur ∧ ¬ (wanted b ≠ cur ∧ HoldOver s) ∧
      asmStep b s = restartOnStop cur (guardTest s)) := by
  have loop : ∀ cur, s.state = loopPlayback cur →
      (wanted b ≠ cur ∧ HoldOver s ∧ libOk s.side (loopSample (wanted b)) = true ∧
        asmStep b s = takeTransition (wanted b) (guardTest s)) ∨
      (wanted b ≠ cur ∧ HoldOver s ∧ libOk s.side (loopSample (wanted b)) = false ∧
        asmStep b s = restartOnStop cur ((guardTest s).emit (unavailable (loopSample (wanted b))))) ∨
      (¬ (wanted b ≠ cur ∧ HoldOver s) ∧ asmStep b s = restartOnStop cur (guardTest s)) := by
    intro cur h
    have hs : (guardTest s).side = s.side := by rw [guardTest_eq]
    rw [asmStep_looping b s cur h]
    rcases afterGuard_cases cur (wanted b) (guardTest s) with ⟨hd, hl, e⟩ | ⟨hd, hl, e⟩ | ⟨hd, e⟩
    · have hd := (transitionDue_guardTest cur (wanted b) s).mp hd
      exact .inl ⟨hd.1, hd.2, by rw [← hs]; exact hl, e⟩
    · have hd := (transitionDue_guardTest cur (wanted b) s).mp hd
      exact .inr (.inl ⟨hd.1, hd.2, by rw [← hs]; exact hl, e⟩)
    · refine .inr (.inr ⟨fun hn => ?_, e⟩)
      rw [(transitionDue_guardTest cur (wanted b) s).mpr hn] at hd
      cases hd
  have lift : ∀ cur, s.state = loopPlayback cur → _ := fun cur h => (loop cur h).imp
    (fun h' => (⟨cur, h, h'⟩ : ∃ cur, s.state = loopPlayback cur ∧ wanted b ≠ cur ∧ HoldOver s ∧
      libOk s.side (loopSample (wanted b)) = true ∧ asmStep b s = takeTransition (wanted b) (guardTest s)))
    (fun h' => h'.imp
      (fun h'' => (⟨cur, h, h''⟩ : ∃ cur, s.state = loopPlayback cur ∧ wanted b ≠ cur ∧ HoldOver s ∧
        libOk s.side (loopSample (wanted b)) = false ∧
        asmStep b s = restartOnStop cur ((guardTest s).emit (unavailable (loopSample (wanted b))))))
      (fun h'' => (⟨cur, h, h''⟩ : ∃ cur, s.state = loopPlayback cur ∧ ¬ (wanted b ≠ cur ∧ HoldOver s) ∧
        asmStep b s = restartOnStop cur (guardTest s))))
  cases hs : s.state
  · cases hp : s.spin
    · exact .inl ⟨rfl, rfl, by simp [asmStep, hs, hp]⟩
    · cases hq : s.side.sinkPlaying
      · exact .inr (.inr (.inl ⟨rfl, rfl, rfl, by simp [asmStep, hs, hp, hq]⟩))
      · exact .inr (.inl ⟨rfl, rfl, rfl, by simp [asmStep, hs, hp, hq]⟩)
  · exact .inr (.inr (.inr (hs ▸ lift .idle hs)))
  · exact .inr (.inr (.inr (hs ▸ lift .access hs)))

end Sys2Proof.Machine
end

