-- ==== Sys2Proof/Laws/PerInstr.lean ====
section
/-! SUPPORT. Statements made for each instruction: its encoded word is of its row of spec/opcode_table.json. -/

namespace Sys2Proof.Laws.TableRow

/-- The instruction's word is of its row, and its row is one of the table's nine. -/
def Statement (i : Instr) : Prop := i.row.covers (encode i) = true ∧ i.row ∈ opcodeTable

/-- Where a concatenation of a fixed high part and a free low part meets a mask with no bit in the low part, only the
high part counts. -/
theorem append_and_high {m n : Nat} (hi hiMask : BitVec m) (lo : BitVec n) :
    (hi ++ lo) &&& (hiMask ++ 0#n) = (hi &&& hiMask) ++ 0#n := by
  simp [BitVec.and_append]

theorem nop : Statement .nop := by unfold Statement; decide

theorem cls : Statement .cls := by unfold Statement; decide

theorem clsS (k : Strobe) (a : Addr) : Statement (.clsS k a) := by
  refine ⟨?_, by cases k <;> simp [opcodeTable, Instr.row]⟩
  have h := append_and_high (0b0001#4 ++ 1#1 ++ k.bit ++ 0#10) 0xFBFF#16 a
  simp only [OpRow.covers, Instr.row, encode, beq_iff_eq]
  refine Eq.trans h ?_
  cases k <;> decide

theorem asm (b : Bool) : Statement (.asm b) := by unfold Statement; cases b <;> decide

theorem tick : Statement .tick := by unfold Statement; decide

theorem tickS (k : Strobe) (a : Addr) : Statement (.tickS k a) := by
  refine ⟨?_, by cases k <;> simp [opcodeTable, Instr.row]⟩
  have h := append_and_high (0b0011#4 ++ 1#1 ++ k.bit ++ 0#10) 0xFBFF#16 a
  simp only [OpRow.covers, Instr.row, encode, beq_iff_eq]
  refine Eq.trans h ?_
  cases k <;> decide

theorem shdn : Statement .shdn := by unfold Statement; decide

theorem flt (info : Info) : Statement (.flt info) := by
  refine ⟨?_, by simp [opcodeTable, Instr.row]⟩
  have h := append_and_high (0b0101#4 ++ 0#12) 0xFFFF#16 info
  simp only [OpRow.covers, Instr.row, encode, beq_iff_eq]
  exact Eq.trans h (by decide)

theorem rds (idx : Index) : Statement (.rds idx) := by
  refine ⟨?_, by simp [opcodeTable, Instr.row]⟩
  have h := append_and_high (0b0110#4 ++ 0#20) 0xFFFFFF#24 idx
  simp only [OpRow.covers, Instr.row, encode, beq_iff_eq]
  exact Eq.trans h (by decide)

end Sys2Proof.Laws.TableRow
end

