-- ==== Sys2Proof/Laws/Run.lean ====
section
/-! SUPPORT. What one step and a run of steps can do: one case lemma for a step that answers a next state, the recursion
of runs, traces and the last mute event, and the same of a run as the host sees it. -/

namespace Sys2Proof.Machine

/-! ## One step -/

/-- An illegal word on a halted block does nothing; on a running one it sets ILLEGAL and logs (R185, R186). -/
theorem illegalWord_cases (cmd : Word) (s : State) :
    (s.halted = true ∧ illegalWord cmd s = s) ∨
    (s.halted = false ∧ illegalWord cmd s = { s with
      illegal := true
      events := s.events ++ [.log .illegalCommand ((opField cmd).setWidth 16)] }) := by
  unfold illegalWord
  rcases whenRunning_cases (fun s : State =>
    { s with illegal := true }.emit (.log .illegalCommand ((opField cmd).setWidth 16))) s with ⟨h, e⟩ | ⟨h, e⟩ <;>
    rw [e]
  · exact .inl ⟨h, rfl⟩
  · exact .inr ⟨h, rfl⟩

/-- On a halted block only RDS has an effect (R186). -/
theorem execState_halted (i : Instr) (s : State) (h : s.halted = true) (hn : ∀ idx, i ≠ .rds idx) :
    execState i s = s := by
  cases i <;> simp only [execState] <;> (try rw [whenRunning_halted _ h])
  exact absurd rfl (hn _)

/-- What no command writes: the widths, the configuration, the side inputs, what is presented, and ILLEGAL (R8, R36,
R37, R241). -/
theorem execState_kept (i : Instr) (s : State) :
    (execState i s).params = s.params ∧ (execState i s).cfg = s.cfg ∧ (execState i s).side = s.side ∧
    (execState i s).pending = s.pending ∧ (execState i s).initialised = s.initialised ∧
    (execState i s).illegal = s.illegal := by
  cases i <;> simp only [execState] <;>
    (try rcases whenRunning_cases _ s with ⟨_, e⟩ | ⟨_, e⟩ <;> rw [e]) <;> simp [faultShutdown]

/-- A step that answers a next state, on the input it took: a reset, an illegal word, or the decoded command (R188,
R215, R242). -/
theorem step_next_cases {s t : State} {x : PortInput} {rest : List PortInput} (hp : s.pending = x :: rest)
    (h : step s = .next t) :
    (x.reset = true ∧ t = resetBlock x { s with pending := rest }) ∨
    (x.reset = false ∧ s.initialised = true ∧ (∀ i, decode s.params.wA x.cmd ≠ .instr i) ∧
      t = illegalWord x.cmd (beginStep x { s with pending := rest })) ∨
    (x.reset = false ∧ s.initialised = true ∧
      ∃ i, decode s.params.wA x.cmd = .instr i ∧ t = execState i (beginStep x { s with pending := rest })) := by
  rw [step_cons hp] at h
  rcases cycle_next_cases h with ⟨a, e⟩ | ⟨a, b, ⟨r, hr⟩, e⟩ | ⟨a, b, i, hi, e⟩
  · exact .inl ⟨a, e⟩
  · refine .inr (.inl ⟨a, b, fun i hi => ?_, e⟩)
    have hr : decode s.params.wA x.cmd = .illegal r := hr
    rw [hi] at hr
    cases hr
  · refine .inr (.inr ⟨a, b, i, hi, ?_⟩)
    rw [exec_eq_next] at e
    cases e
    rfl

/-- What a step that answers a next state leaves of its input queue, its widths, its configuration and the first-reset
mark (R67, R241, R242). -/
theorem step_next_kept {s t : State} {x : PortInput} {rest : List PortInput} (hp : s.pending = x :: rest)
    (h : step s = .next t) :
    t.pending = rest ∧ t.params = s.params ∧ (x.reset = false → t.cfg = s.cfg) ∧ t.initialised = true := by
  rcases step_next_cases hp h with ⟨a, e⟩ | ⟨-, b, -, e⟩ | ⟨-, b, i, -, e⟩
  · rw [e]
    simp [resetBlock, a]
  · rcases illegalWord_cases x.cmd (beginStep x { s with pending := rest }) with ⟨-, g⟩ | ⟨-, g⟩ <;>
      rw [e, g] <;> simp [b]
  · obtain ⟨h1, h2, -, h4, h5, -⟩ := execState_kept i (beginStep x { s with pending := rest })
    rw [e, h1, h2, h4, h5]
    simp [b]

/-! ## Runs -/

theorem runSteps_succ (k : Nat) (s : State) :
    runSteps (k + 1) s =
      (match step s with | .next t => runSteps k t | .fault r => .fault r | .refused r => .refused r) := rfl

/-- A run of at least one step that answers a next state begins with such a step. -/
theorem runSteps_succ_next {k : Nat} {s t : State} (h : runSteps (k + 1) s = .next t) :
    ∃ u, step s = .next u ∧ runSteps k u = .next t := by
  rw [runSteps_succ] at h
  cases hs : step s with
  | next u => rw [hs] at h; exact ⟨u, rfl, h⟩
  | fault r => cases r
  | refused r => rw [hs] at h; cases h

/-- One step more at the end of a run. -/
theorem runSteps_snoc (k : Nat) (s t : State) (h : runSteps k s = .next t) : runSteps (k + 1) s = step t := by
  induction k generalizing s with
  | zero => cases h; rw [runSteps_succ]; cases step t <;> rfl
  | succ k ih =>
    obtain ⟨u, h1, h2⟩ := runSteps_succ_next h
    rw [runSteps_succ, h1]
    exact ih u h2

/-- The runs of this file are the host's runs of `Sys2Proof.core`. -/
theorem runSteps_eq_core_run (k : Nat) (s : State) : Host.Core.run Sys2Proof.core k s = runSteps k s := by
  induction k generalizing s with
  | zero => rfl
  | succ k ih =>
    refine (Host.Core.run.eq_def Sys2Proof.core (k + 1) s).trans ?_
    rw [runSteps_succ]
    have hc : Sys2Proof.core.step s = step s := rfl
    simp only [hc]
    cases step s with
    | next t => exact ih t
    | fault r => rfl
    | refused r => rfl

theorem eventTrace_succ {k : Nat} {s t : State} (h : step s = .next t) :
    eventTrace (k + 1) s = t.events ++ eventTrace k t := by
  simp [eventTrace, h]

theorem lastMute_append (l m : List Event) : lastMute (l ++ m) = (lastMute m).or (lastMute l) := by
  induction l with
  | nil => cases h : lastMute m <;> simp [lastMute, h]
  | cons a l ih =>
    simp only [List.cons_append, lastMute]
    rw [ih]
    cases lastMute m <;> cases lastMute l <;> cases a <;> rfl

/-! ## Runs as the host sees them (R250) -/

/-- The state a host's run leaves. -/
def lastState (s : State) : List HostStep → State
  | [] => s
  | h :: rest => lastState h.after rest

/-- A host's run is the block's run of the same length. -/
theorem isRun_runSteps {s : State} {run : List HostStep} (h : IsRun s run) :
    runSteps run.length s = .next (lastState s run) := by
  induction run generalizing s with
  | nil => rfl
  | cons a rest ih =>
    rw [List.length_cons, runSteps_succ, h.2.1]
    exact ih h.2.2

/-- A host that performs each step's events in order performs exactly the block's events, those of an earlier step first
(R68, duty 4). -/
theorem performed_eq_eventTrace {s : State} {run : List HostStep} (h : IsRun s run) (hp : PerformedInOrder run) :
    run.flatMap (fun a => a.performed.map Performed.event) = eventTrace run.length s := by
  induction run generalizing s with
  | nil => rfl
  | cons a rest ih =>
    rw [List.flatMap_cons, List.length_cons, eventTrace_succ h.2.1, hp a (by simp)]
    congr 1
    exact ih h.2.2 (fun b hb => hp b (by simp [hb]))

/-- The inputs of a host's run are the oldest presented ones, in order (R67). -/
theorem isRun_inputs {s : State} {run : List HostStep} (h : IsRun s run) :
    s.pending = run.map HostStep.input ++ (lastState s run).pending := by
  induction run generalizing s with
  | nil => rfl
  | cons a rest ih =>
    obtain ⟨x, tail, hp, -⟩ := step_next_input h.2.1
    have hx : x = a.input := by
      have := h.1
      rw [hp] at this
      exact Option.some.inj this
    rw [List.map_cons, List.cons_append, lastState, ← ih h.2.2, (step_next_kept hp h.2.1).1, hp, hx]

/-- After events that end with a `PLAY` the sink could not start, a truthful sink reports 0 in the next step (duty 2). -/
theorem truthfulSink_failed_play {h g : HostStep} {rest : List HostStep} {before : List Performed} {smp : Sample}
    {loop : Bool} (ht : TruthfulSink (h :: g :: rest))
    (hp : h.performed = before ++ [{ event := .play smp loop, started := false }]) :
    g.input.side.sinkPlaying = false := by
  have hc : ∀ (l : List Performed) (b : Bool),
      sinkCanPlay b (l ++ [{ event := .play smp loop, started := false }]) = false := by
    intro l
    induction l with
    | nil => intro b; rfl
    | cons a l ih => intro b; exact ih _
  rw [ht.1 g (by simp)]
  cases hs : g.sinkIsPlaying
  · rfl
  · have := ht.2 (h, g) (by simp) hs
    rw [hp, hc] at this
    cases this

end Sys2Proof.Machine
end

