-- ==== Sys2Proof/Tests/Slice0.lean ====
section
/-! SUPPORT. Tests. The expected results are those of spec/95_test_vectors.md and of the encodings of spec/30_encoding.md;
each test names its vector. The witnesses at the end meet the hypotheses of the statements in Obligations.lean. -/

namespace Sys2Proof.Tests

open Sys2Proof Sys2Proof.Machine

/-! ## Helpers -/

/-- The outcome is a next state, and the check holds of it. -/
def after (o : Host.Outcome State Fault Refusal) (check : State → Bool) : Bool :=
  match o with
  | .next t => check t
  | .fault _ => false
  | .refused _ => false

theorem exists_of_after {o : Host.Outcome State Fault Refusal} {check : State → Bool} (h : after o check = true) :
    ∃ t, o = .next t ∧ check t = true := by
  cases o with
  | next t => exact ⟨t, rfl, h⟩
  | fault r => cases h
  | refused r => cases h

/-- Side inputs with every sample available. -/
def sideAt (now : Time) (playing : Bool) : SideInputs :=
  { now := now, sinkPlaying := playing, okSpinup := true, okIdle := true, okAccess := true }

/-- One presented command word. -/
def word (cmd : Word) (side : SideInputs) : PortInput :=
  { reset := false, cfgPins := Cfg.exampleE, cmd := cmd, side := side }

/-- A presented reset, with configuration E on the pins and `shdn` on the command port. -/
def resetWith : PortInput :=
  { reset := true, cfgPins := Cfg.exampleE, cmd := 0x40000000, side := SideInputs.initial }

/-- The state with these inputs presented. -/
def given (s : State) (xs : List PortInput) : State := { s with pending := xs }

/-- The check holds after one step with one presented command word. -/
def run1 (s : State) (cmd : Word) (side : SideInputs) (check : State → Bool) : Bool :=
  after (step (given s [word cmd side])) check

/-- `S_IDLE` of 95_test_vectors.md section 0. -/
def sIdle : State := { State.reset with state := .idle, spin := true, muted := false }

/-- `S_ACC` of 95_test_vectors.md section 0. -/
def sAcc : State := { sIdle with state := .access }

/-- `S_ACC + HOLD=1, TCHG=500`. -/
def sHeld : State := { sAcc with hold := true, tchg := 500 }

/-- `S_ACC + HALTED=1, MUTED=1`. -/
def sHalted : State := { sAcc with halted := true, muted := true }

/-- `S_RST + SPIN=1, MUTED=0`. -/
def sSpin : State := { State.reset with spin := true, muted := false }

/-- `S_IDLE + DCNT=n, LAST=100`. -/
def sCount (n : Count) : State := { sIdle with dcnt := n, last := 100 }

/-- Configuration E with a zero threshold and a zero timeout. -/
def cfgZero : Cfg := { Cfg.exampleE with threshold := 0, timeout := 0 }

/-- The state with the side inputs of a step already sampled. -/
def sampled (s : State) (side : SideInputs) : State := { s with side := side }

/-! ## Well-formedness -/

theorem test_wf_refuses_wide_cls_address : Instr.wf 10 (.clsS .read 0x0400) = false := by decide
theorem test_wf_refuses_wide_tick_address : Instr.wf 10 (.tickS .write 0x0400) = false := by decide
theorem test_wf_takes_address_at_the_bound : Instr.wf 10 (.clsS .read 0x03FF) = true := by decide
theorem test_decode_refuses_wide_address :
    decode 10 0x18000400 = .illegal (.addressTooWide .cls) ∧ decode 10 0x3C000400 = .illegal (.addressTooWide .tick) ∧
    decode 10 0x180003FF = .instr (.clsS .read 0x03FF) := by decide

/-! ## Decoding: words written out from R83 to R88 -/

theorem test_decode_nop : decode 16 0b00000000000000000000000000000000#32 = .instr .nop := by decide
theorem test_decode_cls : decode 16 0b00010000000000000000000000000000#32 = .instr .cls := by decide
theorem test_decode_clsS_read :
    decode 16 0b00011000000000000000001100000000#32 = .instr (.clsS .read 0x0300) := by decide
theorem test_decode_clsS_write :
    decode 16 0b00011100000000001000000000000001#32 = .instr (.clsS .write 0x8001) := by decide
theorem test_decode_asm :
    decode 16 0b00100000000000000000000000000000#32 = .instr (.asm false) ∧
    decode 16 0b00101000000000000000000000000000#32 = .instr (.asm true) := by decide
theorem test_decode_tick : decode 16 0b00110000000000000000000000000000#32 = .instr .tick := by decide
theorem test_decode_tickS :
    decode 16 0b00111100000000000000001100000001#32 = .instr (.tickS .write 0x0301) := by decide
theorem test_decode_shdn : decode 16 0b01000000000000000000000000000000#32 = .instr .shdn := by decide
theorem test_decode_flt : decode 16 0b01010000000000001000000010101011#32 = .instr (.flt 0x80AB) := by decide
theorem test_decode_rds : decode 16 0b01100000000000000000000010001001#32 = .instr (.rds 0x89) := by decide

/-- ILL-1 to ILL-8. -/
theorem test_decode_illegal :
    decode 16 0x70000000 = .illegal (.reservedOp 7) ∧ decode 16 0x10000300 = .illegal (.reservedBits .cls) ∧
    decode 16 0x10010000 = .illegal (.reservedBits .cls) ∧ decode 16 0x28000001 = .illegal (.reservedBits .asm) ∧
    decode 16 0x00000001 = .illegal (.reservedBits .nop) ∧ decode 16 0x60000100 = .illegal (.reservedBits .rds) ∧
    decode 16 0xF0000000 = .illegal (.reservedOp 15) ∧ decode 16 0x18400300 = .illegal (.reservedBits .cls) := by
  decide

/-- Two rows are disjoint when some bit that both fix differs. -/
theorem test_table_rows_disjoint :
    opcodeTable.Pairwise (fun r q => (r.pattern ^^^ q.pattern) &&& (r.mask &&& q.mask) ≠ 0) := by decide

/-- The encodings of R92's table and the byte order of R62. -/
theorem test_encode_words :
    encode (.clsS .write 0x0301) = 0x1C000301 ∧ encode (.tickS .read 0x0300) = 0x38000300 ∧
    encode (.asm true) = 0x28000000 ∧ encode (.flt 0x00AB) = 0x500000AB ∧ encode (.rds 0x09) = 0x60000009 := by decide
theorem test_bytes_little_endian : bytesOfWord 0x1C000301 = [0x01, 0x03, 0x00, 0x1C] := by decide
theorem test_decodeTableWord :
    decodeTableWord 32 0x38000300 = some (.tickS .read 0x0300) ∧ decodeTableWord 32 0x70000000 = none := by decide
theorem test_withFetchWord :
    after (step (State.reset.withFetchWord 32 0x60000008)) (fun t => decide (t.rdata = 1)) = true := by decide

/-! ## Steps: vectors of 95_test_vectors.md -/

/-- CLS-6. -/
theorem test_cls_timeout : run1 (sCount 1) 0x10000000 (sideAt 151 false)
    (fun t => decide (t.dcnt = 0 ∧ t.last = 151 ∧ t.busy = false)) = true := by decide
/-- CLS-5. -/
theorem test_cls_gap_at_the_timeout : run1 (sCount 1) 0x10000000 (sideAt 150 false)
    (fun t => decide (t.dcnt = 1 ∧ t.last = 100)) = true := by decide
/-- CLS-4. -/
theorem test_clsS_fires : run1 (sCount 2) 0x18000300 (sideAt 120 false)
    (fun t => decide (t.dcnt = 0 ∧ t.last = 120 ∧ t.busy = true ∧ t.events = [])) = true := by decide
/-- CLS-10: the time has wrapped. -/
theorem test_clsS_wraps : run1 { sIdle with dcnt := 1, last := 0xFFFFFFF0 } 0x18000300 (sideAt 0x10 false)
    (fun t => decide (t.dcnt = 2 ∧ t.last = 0x10)) = true := by decide
/-- ASM-2. -/
theorem test_asm_spin_up_start : run1 { State.reset with cfg := cfgZero } 0x20000000 (sideAt 0 false)
    (fun t => decide (t.events = [.log .configInvalid 3, .mute false, .play .spinup false] ∧ t.spin = true)) = true := by
  decide
/-- ASM-9. -/
theorem test_asm_hold_over : run1 sHeld 0x20000000 (sideAt 600 true)
    (fun t => decide (t.state = .idle ∧ t.tchg = 600 ∧ t.hold = true ∧ t.events = [.stop, .play .idle true])) = true := by
  decide
/-- TICK-4. -/
theorem test_tick_returns_to_idle : run1 { sAcc with hold := true, tchg := 100 } 0x30000000 (sideAt 200 true)
    (fun t => decide (t.state = .idle ∧ t.last = 200 ∧ t.tchg = 200 ∧ t.events = [.stop, .play .idle true])) = true := by
  decide
/-- TICK-2. -/
theorem test_tickS_fires : run1 (sCount 2) 0x38000300 (sideAt 120 true)
    (fun t => decide (t.state = .access ∧ t.busy = true ∧ t.dcnt = 0 ∧ t.events = [.stop, .play .access true])) = true := by
  decide
/-- TICK-1. -/
theorem test_tickS_in_spinup : run1 State.reset 0x38000300 (sideAt 0 false)
    (fun t => decide (t.dcnt = 0 ∧ t.events = [.mute false, .play .spinup false])) = true := by decide
/-- NOP-1. -/
theorem test_nop : run1 { sIdle with dcnt := 1 } 0x00000000 (sideAt 1000 false)
    (fun t => decide (t.dcnt = 1 ∧ t.last = 0 ∧ t.events = [])) = true := by decide
/-- SHDN-1. -/
theorem test_shdn : run1 sAcc 0x40000000 (sideAt 5 false)
    (fun t => decide (t.muted = true ∧ t.halted = true ∧ t.state = .access ∧ t.events = [.stop, .mute true])) = true := by
  decide
/-- FLT-1. -/
theorem test_flt : run1 sIdle 0x500000AB (sideAt 5 false)
    (fun t => decide (t.faulted = true ∧ t.finfo = 0xAB ∧
      t.events = [.stop, .mute true, .log .runtimeFault 0xAB])) = true := by decide
/-- HALT-3. -/
theorem test_rds_halted : run1 sHalted 0x60000000 (sideAt 5 false) (fun t => decide (t.rdata = 2)) = true := by decide
/-- RDS-4. -/
theorem test_rds_cfg_warn : run1 { State.reset with cfg := cfgZero } 0x6000000D (sideAt 0 false)
    (fun t => decide (t.rdata = 3)) = true := by decide
/-- ILL-8 and HALT-2. -/
theorem test_illegal : run1 sIdle 0x18400300 (sideAt 5 false)
      (fun t => decide (t.illegal = true ∧ t.dcnt = 0 ∧ t.events = [.log .illegalCommand 1])) = true ∧
    run1 sHalted 0x70000000 (sideAt 5 false) (fun t => decide (t.illegal = false ∧ t.events = [])) = true := by decide
/-- RST-1. -/
theorem test_reset : after (step (given { sHalted with faulted := true, finfo := 0xAB, dcnt := 2, last := 77 } [resetWith]))
    (fun t => decide (t = State.reset)) = true := by decide

/-! ## The assembler syntax (R92, R93) -/

theorem test_assembler_line :
    parseLine "tick.s w, 0x0301 ; note".toList = some (.command (.core (.tickS .write 0x0301))) := by decide
theorem test_assembler_side_line :
    parseLine "  @ now=3000 ok=101".toList =
      some (.side { now := some 3000, playing := none, ok := some (true, false, true) }) := by decide
theorem test_assembler_pseudo :
    commandWord (.pseudo (.clsW 0x0301)) = 0x1C000301 ∧ commandWord (.pseudo .asmBusy) = 0x28000000 ∧
    commandWord (.raw 0x70000000) = 0x70000000 := by decide
/-- An omitted side input keeps its value. -/
theorem test_assembler_keeps_side_inputs :
    (parseProgram "tick\n@ now=10 playing=1\nrdstate").map (fun ls => (assemble Cfg.exampleE ls).map fun x => (x.cmd, x.side)) =
      some [(0x30000000, sideAt 10 true), (0x60000000, sideAt 10 true)] := by decide

theorem test_assembler_side_fields :
    parseLine "@ playing=1 now=3 playing=0".toList =
      some (.side { now := some 3, playing := some false, ok := none }) ∧
    parseLine "@".toList = some (.side SideUpdate.none) ∧
    parseProgram "@ now=1\ntick" = none ∧ parseProgram "tick\n@ now=1\n@ now=2" = none := by decide

/-! ## The host's duties (R250) -/

/-- The step of a host whose sink starts every `PLAY`, and whose answers are those presented. -/
def hostStep (x : PortInput) (t : State) : HostStep where
  input := x
  trueTime := x.side.now.toNat
  sinkIsPlaying := x.side.sinkPlaying
  obtainable := [.spinup, .idle, .access]
  after := t
  performed := t.events.map fun e => { event := e, started := true }

/-- The host's run with these inputs. -/
def hostRun : State → List PortInput → List HostStep
  | _, [] => []
  | s, x :: xs =>
    match step s with
    | .next t => hostStep x t :: hostRun t xs
    | .fault _ => []
    | .refused _ => []

/-- Every one of these inputs is the oldest presented one when its step comes. -/
def inputsTaken : State → List PortInput → Bool
  | _, [] => true
  | s, x :: xs => decide (s.pending.head? = some x) && after (step s) (fun t => inputsTaken t xs)

theorem isRun_hostRun (s : State) (xs : List PortInput) (h : inputsTaken s xs = true) : IsRun s (hostRun s xs) := by
  induction xs generalizing s with
  | nil => trivial
  | cons x xs ih =>
    simp only [inputsTaken, Bool.and_eq_true, decide_eq_true_eq] at h
    obtain ⟨t, ht, hc⟩ := exists_of_after h.2
    simp only [hostRun, ht]
    exact ⟨h.1, ht, ih t hc⟩

/-- Program P1's boot, a sample, and a shutdown, after the reset. -/
def bootInputs : List PortInput :=
  [resetWith, word 0x30000000 (sideAt 0 false), word 0x30000000 (sideAt 10 true), word 0x30000000 (sideAt 3000 false),
    word 0x38000300 (sideAt 3010 true), word 0x40000000 (sideAt 3011 true)]

/-- The run of `bootInputs`. -/
def bootRun : List HostStep := hostRun (given State.reset bootInputs) bootInputs

/-- Some run keeps all seven duties. -/
theorem witness_KeepsDuties : KeepsDuties (given State.reset bootInputs) [⟨.read, 0x0300⟩] (bootRun.take 1)
    ((bootRun.drop 1).map fun h => [h]) bootRun where
  isRun := isRun_hostRun _ _ (by decide)
  monotonicTime := by unfold MonotonicTime; decide
  truthfulSink := by unfold TruthfulSink; decide
  truthfulLibrary := fun h hm smp _ => by
    have hp : ∀ h ∈ bootRun, h.performed.map Performed.event = h.after.events ∧
        h.obtainable = [.spinup, .idle, .access] := by decide
    obtain ⟨h1, h2⟩ := hp h hm
    exact ⟨by rw [h2]; cases smp <;> decide, fun _ he => by rw [h1]; exact he⟩
  performedInOrder := by unfold PerformedInOrder; decide
  samplesInOrder := by unfold SamplesInOrder; decide
  polls := by unfold PollsEveryIteration Polls Gives EndsTheLoop; decide
  orderlyEnd := by unfold OrderlyEnd EndsTheLoop; decide

/-- The `shdn` presented with a reset is not executed, so it ends nothing (R240). -/
theorem test_reset_word_ends_no_run : instructionOf Params.reference resetWith = none ∧
    ¬ OrderlyEnd Params.reference [hostStep resetWith State.reset] := by
  unfold OrderlyEnd EndsTheLoop
  decide

/-- A sink that could not start the spin-up sample and reports 1 in the next step is not truthful. -/
theorem test_failed_play_reports_zero (g : HostStep) (hg : g.input.side.sinkPlaying = true) : ¬ TruthfulSink
    [{ hostStep (word 0x20000000 (sideAt 0 false)) State.reset with
        performed := [{ event := .mute false, started := false }, { event := .play .spinup false, started := false }] },
      g] := fun h => by
  rw [truthfulSink_failed_play (before := [{ event := .mute false, started := false }]) h rfl] at hg
  cases hg

/-! ## Witnesses: concrete states that meet the hypotheses of the statements -/

theorem inv_sIdle : Inv sIdle := by constructor <;> decide
theorem inWidths_sIdle : InWidths sIdle := by constructor <;> decide

theorem witness_DecodeInvertsEncode :
    Instr.wf 16 (.clsS .write 0xFFFF) = true ∧ Instr.wf 10 (.tickS .read 0x03FF) = true ∧ Instr.wf 1 (.rds 0xFF) = true := by
  decide

theorem witness_DecodedWordIsItsEncoding :
    decode 16 0x3C00FFFF = .instr (.tickS .write 0xFFFF) ∧ decode 1 0x18000001 = .instr (.clsS .read 1) := by decide

theorem witness_DecodedWordLiesInItsTableRowOnly :
    decode 16 0x6000FFFF = .illegal (.reservedBits .rds) ∧ decode 16 0x600000FF = .instr (.rds 0xFF) ∧
    ∃ r ∈ opcodeTable, r.covers 0x600000FF = true := by decide

theorem witness_CommandBytesLittleEndian :
    ([0x01, 0x03, 0x00] : List Byte).length < 4 ∧ takeCommand [0x01, 0x03, 0x00] = none ∧
    takeCommand [0x01, 0x03, 0x00, 0x1C, 0xFF] = some (0x1C000301, [0xFF]) := by decide

theorem witness_EventWordsDistinct :
    eventWord (.log .illegalCommand 7) = eventWord (.log .illegalCommand 7) ∧ eventWord (.play .spinup true) = 0x20000001 := by
  decide

theorem witness_ResetAssertedResetsTheBlock :
    (given sHalted [resetWith]).pending = [resetWith] ∧ resetWith.reset = true ∧
    CfgInWidths sHalted.params resetWith.cfgPins := ⟨rfl, rfl, by constructor <;> decide⟩

theorem witness_StepBeforeFirstResetRefused : ∃ (s : State) (x : PortInput), s.initialised = false ∧ s.pending = [x] ∧ x.reset = false :=
  ⟨{ given State.reset [word 0x60000000 (sideAt 0 false)] with initialised := false },
    word 0x60000000 (sideAt 0 false), rfl, rfl, rfl⟩

theorem witness_StepWithoutCommandRefused : State.reset.pending = [] := rfl

theorem witness_StepRunsTheDecodedCommand : ∃ (s : State) (x : PortInput) (i : Instr), s.initialised = true ∧ s.pending = [x] ∧ x.reset = false ∧
    decode s.params.wA x.cmd = .instr i :=
  ⟨given sIdle [word 0x38000300 (sideAt 5 false)], word 0x38000300 (sideAt 5 false), .tickS .read 0x0300, rfl, rfl, rfl,
    by decide⟩

theorem witness_ConfigurationHeldUntilReset :
    CfgInWidths sIdle.params resetWith.cfgPins ∧ (∃ t, step (given sIdle [resetWith]) = .next t) ∧
    ∃ t, step (given sIdle [word 0x40000000 (sideAt 5 false)]) = .next t :=
  ⟨by constructor <;> decide, (exists_of_after (check := fun _ => true) (by decide)).imp fun _ h => h.1,
    (exists_of_after (check := fun _ => true) (by decide)).imp fun _ h => h.1⟩

theorem witness_IllegalWordIsLogged :
    legal 16 0x70000000 = false ∧ legal 10 0x18000400 = false ∧
    (given sIdle [word 0x70000000 (sideAt 5 false)]).halted = false ∧ sIdle.initialised = true := by decide

/-- A halted block with an RDS, another legal word, an illegal word, and a reset presented. -/
theorem witness_HaltedBlockOnlyReads :
    sHalted.halted = true ∧ sHalted.initialised = true ∧ legal 16 0x600000FF = true ∧ legal 16 0x40000000 = true ∧
    legal 16 0x60000100 = false ∧ resetWith.reset = true := by decide

/-- A gap of exactly TIMEOUT is no timeout, one more is; and a counter above the threshold, in no state of a run. -/
theorem witness_ClsWithoutSample :
    (sCount 1).halted = false ∧ ¬ GapExceeds (sampled (sCount 1) (sideAt 150 false)) ∧
    GapExceeds (sampled (sCount 1) (sideAt 151 false)) ∧ (sCount 3).cfg.threshold.toNat < (sCount 3).dcnt.toNat := by decide

/-- The counter at the threshold, which the next sample exceeds, and one below it. -/
theorem witness_ClsSampleAtDataPort :
    Inv (sCount 2) ∧ InWidths (sCount 2) ∧ (sCount 2).halted = false ∧
    countBefore (sampled (sCount 2) (sideAt 120 false)) 2 + 1 = 3 ∧
    countBefore (sampled (sCount 2) (sideAt 151 false)) 2 + 1 = 1 ∧ Inv (sCount 1) :=
  ⟨by constructor <;> decide, by constructor <;> decide, by decide, by decide, by decide, by constructor <;> decide⟩

theorem witness_ClsSampleAtStatusPort : ∃ s : State, s.scnt.toNat = s.cfg.threshold.toNat ∧ s.halted = false ∧ Inv s ∧
    InWidths s ∧ s.cfg.statusPort ≠ s.cfg.dataPort :=
  ⟨{ sIdle with scnt := 2, last := 100 }, by decide, by decide, by constructor <;> decide, by constructor <;> decide,
    by decide⟩

theorem witness_ClsOtherSampleDiscarded :
    (0x0302 : Addr) ≠ sIdle.cfg.dataPort ∧ (0x0302 : Addr) ≠ sIdle.cfg.statusPort := by decide

theorem witness_ClassifyFrame :
    (∃ t, exec .cls (sCount 2) = .next t) ∧ ∃ t, exec (.clsS .read 0x0300) (sCount 2) = .next t := ⟨⟨_, rfl⟩, ⟨_, rfl⟩⟩

/-- A sample that fires and one that does not. -/
theorem witness_AtMostOneCounterFires :
    Inv (sCount 2) ∧ InWidths (sCount 2) ∧
    (countSample (some ⟨.read, 0x0300⟩) (timeoutReset (sampled (sCount 2) (sideAt 120 false)))).dcnt = 3 ∧
    (countSample (some ⟨.read, 0x0301⟩) (timeoutReset (sampled (sCount 2) (sideAt 120 false)))).dcnt = 2 :=
  ⟨by constructor <;> decide, by constructor <;> decide, by decide, by decide⟩

/-- After a cycle that fired and after one that did not, with a `cls` one ms later and another one ms after that. -/
theorem witness_ClassifyWithoutSampleIdempotent :
    (sampled (sCount 2) (sideAt 101 false)).halted = false ∧
    (classify (some ⟨.read, 0x0300⟩) (sampled (sCount 2) (sideAt 101 false))).busy = true ∧
    (classify none (sampled (sCount 2) (sideAt 101 false))).busy = false ∧
    ¬ GapExceeds (sampled (classify (some ⟨.read, 0x0300⟩) (sampled (sCount 2) (sideAt 101 false))) (sideAt 102 false)) ∧
    ¬ GapExceeds (sampled { classify (some ⟨.read, 0x0300⟩) (sampled (sCount 2) (sideAt 101 false)) with busy := false }
      (sideAt 103 false)) ∧
    ¬ GapExceeds (sampled (classify none (sampled (sCount 2) (sideAt 101 false))) (sideAt 102 false)) := by decide

/-- Four samples at each port, each exactly TIMEOUT after the one before it; and two with a zero threshold. -/
theorem witness_ThresholdRunFiresOnce :
    sIdle.initialised = true ∧ sIdle.halted = false ∧ Inv sIdle ∧ InWidths sIdle ∧
    counterOf sIdle .data = 0 ∧ counterOf sIdle .status = 0 ∧
    ([word 0x18000300 (sideAt 100 true), word 0x1C000300 (sideAt 150 true)] : List PortInput).length =
      sIdle.cfg.threshold.toNat ∧
    PresentsSample sIdle.params sIdle.cfg .data (word 0x1C000300 (sideAt 100 true)) ∧
    PresentsSample sIdle.params sIdle.cfg .status (word 0x18000301 (sideAt 100 true)) ∧
    GapsBetween sIdle.params sIdle.cfg [word 0x18000300 (sideAt 100 true), word 0x1C000300 (sideAt 150 true),
      word 0x18000300 (sideAt 200 true), word 0x18000300 (sideAt 250 true)] ∧
    Inv { sIdle with cfg := cfgZero } ∧ InWidths { sIdle with cfg := cfgZero } ∧
    GapsBetween sIdle.params cfgZero [word 0x18000300 (sideAt 100 true), word 0x18000300 (sideAt 100 true)] :=
  ⟨rfl, rfl, inv_sIdle, inWidths_sIdle, rfl, rfl, rfl,
    ⟨rfl, .write, 0x0300, by decide, by unfold countsInto; decide⟩,
    ⟨rfl, .read, 0x0301, by decide, by unfold countsInto; decide⟩,
    by unfold GapsBetween GapsBetween GapsBetween GapsBetween; decide,
    by constructor <;> decide, by constructor <;> decide, by unfold GapsBetween GapsBetween; decide⟩

theorem witness_LastUnobservableAtZeroCounters : ∃ (s t : State) (k : Nat), s.dcnt = 0 ∧ s.scnt = 0 ∧ runSteps k s = .next t ∧ 2 ≤ k :=
  have h : after (runSteps 2 (given sIdle [word 0x18000300 (sideAt 90 false), word 0x60000004 (sideAt 90 false)]))
    (fun _ => true) = true := by decide
  have ⟨t, ht, _⟩ := exists_of_after h
  ⟨_, t, 2, rfl, rfl, ht, by decide⟩

/-- A difference across the wrap of the time, and one of 2^W_T - 1. -/
theorem witness_TimeDifferenceIsElapsedTime : ∃ (s : State) (start : Time) (t0 t1 : Nat), t0 ≤ t1 ∧
    t1 - t0 < 2 ^ s.params.wT ∧ start.toNat = t0 % 2 ^ s.params.wT ∧ s.side.now.toNat = t1 % 2 ^ s.params.wT ∧
    t1 - t0 = 2 ^ 32 - 1 :=
  ⟨sampled sIdle (sideAt 0xFFFFFFEF false), 0xFFFFFFF0, 0xFFFFFFF0, 0x1FFFFFFEF, by decide, by decide, by decide, by decide,
    by decide⟩

theorem witness_SpinUpStart :
    State.reset.halted = false ∧ State.reset.state = .spinup ∧ State.reset.spin = false ∧
    ({ State.reset with cfg := cfgZero } : State).cfg.threshold = 0 ∧ Cfg.exampleE.threshold ≠ 0 := by decide

theorem witness_SpinUpWait : (sampled sSpin (sideAt 10 true)).state = .spinup ∧ sSpin.spin = true ∧
    (sampled sSpin (sideAt 10 true)).side.sinkPlaying = true := by decide

theorem witness_SpinUpToIdle : sSpin.halted = false ∧ sSpin.state = .spinup ∧ sSpin.spin = true ∧
    (sampled sSpin (sideAt 3000 false)).side.sinkPlaying = false ∧ Inv (sampled sSpin (sideAt 3000 false)) :=
  ⟨rfl, rfl, rfl, rfl, by constructor <;> decide⟩

/-- The hold is over exactly MIN_DELAY after the transition, and not one ms before. -/
theorem witness_TransitionTaken :
    HoldOver sIdle ∧ sIdle.state = .idle ∧ sIdle.side.okAccess = true ∧ sIdle.halted = false ∧
    HoldOver (sampled sHeld (sideAt 600 true)) ∧ ¬ HoldOver (sampled sHeld (sideAt 599 true)) ∧
    sHeld.state = .access ∧ sHeld.side.okIdle = true := by decide

theorem witness_TransitionUnavailable :
    HoldOver (sampled sIdle { sideAt 700 false with okAccess := false }) ∧ sIdle.halted = false ∧ sIdle.state = .idle ∧
    HoldOver (sampled sHeld { sideAt 600 true with okIdle := false }) ∧ sHeld.halted = false ∧ sHeld.state = .access := by
  decide

/-- No transition asked for; one asked for and held; one asked for whose sample is unavailable. -/
theorem witness_RestartWithoutTransition :
    sIdle.halted = false ∧ sIdle.state = loopPlayback .idle ∧ wanted false = .idle ∧
    sHeld.state = loopPlayback .access ∧ wanted false ≠ .access ∧ ¬ HoldOver (sampled sHeld (sideAt 550 false)) ∧
    libOk { sideAt 700 false with okAccess := false } (loopSample (wanted true)) = false := by decide

theorem witness_AsmFrame : ∃ t, exec (.asm true) sIdle = .next t := ⟨_, rfl⟩

/-- The round trip of 95_test_vectors.md section 1.3: held at 599, due at 600. -/
theorem witness_HoldBlocksTransitions : ∃ (k : Nat) (s t : State) (y : PortInput), s.hold = true ∧ s.state ≠ .spinup ∧
    NoResetIn k s ∧
    (∀ x ∈ s.pending.take k,
      ((sampleSide s.params x.side).now - s.tchg).toNat % 2 ^ s.params.wT < s.cfg.minDelay.toNat) ∧
    runSteps k s = .next t ∧ t.pending = [y] ∧ y.reset = false ∧ t.initialised = true ∧ t.halted = false ∧
    decode t.params.wA y.cmd = .instr (.asm false) ∧ t.state ≠ loopPlayback (wanted false) ∧
    s.cfg.minDelay.toNat ≤ ((sampleSide s.params y.side).now - s.tchg).toNat % 2 ^ s.params.wT ∧
    libOk y.side (loopSample (wanted false)) = true :=
  have h : after (runSteps 2 (given sHeld [word 0x28000000 (sideAt 550 true), word 0x20000000 (sideAt 599 true),
      word 0x20000000 (sideAt 600 true)]))
    (fun t => decide (t.pending = [word 0x20000000 (sideAt 600 true)] ∧ t.initialised = true ∧ t.halted = false ∧
      t.params = Params.reference ∧ t.state ≠ loopPlayback (wanted false))) = true := by decide
  have ⟨t, ht, hc⟩ := exists_of_after h
  have ⟨h1, h2, h3, h4, h5⟩ := of_decide_eq_true hc
  ⟨2, _, t, word 0x20000000 (sideAt 600 true), rfl, by decide, by unfold NoResetIn; decide, by decide, ht, h1, rfl, h2, h3,
    by rw [h4]; decide, h5, by decide, by decide⟩

theorem witness_TickClassifiesThenDrives :
    sIdle.halted = false ∧ sIdle.state ≠ .spinup ∧ State.reset.halted = false ∧ State.reset.state = .spinup := by decide

theorem witness_TickFiringReachesAccess : ∃ s : State, s.halted = false ∧ Inv s ∧ InWidths s ∧ s.state = .idle ∧ s.hold = false ∧
    s.side.okAccess = true ∧ ¬ GapExceeds s ∧ s.dcnt.toNat = s.cfg.threshold.toNat :=
  ⟨sampled (sCount 2) (sideAt 120 true), by decide, by constructor <;> decide, by constructor <;> decide, by decide,
    by decide, by decide, by decide, by decide⟩

theorem witness_TickFrame :
    (∃ t, exec .tick sIdle = .next t) ∧ ∃ t, exec (.tickS .write 0x0301) State.reset = .next t := ⟨⟨_, rfl⟩, ⟨_, rfl⟩⟩

theorem witness_NopChangesNothing : ∃ (s : State) (x : PortInput), s.initialised = true ∧ s.pending = [x] ∧ x.reset = false ∧ x.cmd = 0x00000000 :=
  ⟨given sHalted [word 0 (sideAt 5 false)], word 0 (sideAt 5 false), rfl, rfl, rfl, rfl⟩

theorem witness_ShdnStopsMutesHalts : sAcc.halted = false ∧ (∀ idx, Instr.flt 7 ≠ .rds idx) := by
  refine ⟨rfl, fun idx h => ?_⟩
  cases h

theorem witness_FltStopsMutesHaltsReports : State.reset.halted = false ∧ (∀ idx, Instr.asm true ≠ .rds idx) := by
  refine ⟨rfl, fun idx h => ?_⟩
  cases h

/-- The reserved indices next to the table's. -/
theorem witness_RdsReadsTheTable :
    0x0D < (0x0E : Index).toNat ∧ (0x0F : Index).toNat < 0x10 ∧ 0x14 < (0x15 : Index).toNat ∧
    readRegister sIdle 0x0F = 0 ∧ readRegister sIdle 0x10 = 0x0300 ∧ readRegister sIdle 0x14 = 100 := by decide

theorem witness_OnlyShdnAndFltHalt :
    sIdle.halted = false ∧ (∃ t, step (given sIdle [word 0x40000000 (sideAt 5 false)]) = .next t ∧ t.halted = true) ∧
    ∃ t, step (given sIdle [word 0x500000AB (sideAt 5 false)]) = .next t ∧ t.halted = true :=
  ⟨rfl, exists_of_after (check := fun t => t.halted) (by decide), exists_of_after (check := fun t => t.halted) (by decide)⟩

theorem witness_SilentAfterShutdown : ∃ (s : State) (x y : PortInput), s.initialised = true ∧ s.halted = false ∧ s.pending = [x, y] ∧
    x.reset = false ∧ decode s.params.wA x.cmd = .instr .shdn ∧ ∃ t, step s = .next t ∧ NoResetIn 1 t :=
  have h : after (step (given sAcc [word 0x40000000 (sideAt 5 false), word 0x40000000 (sideAt 6 false)]))
    (fun t => decide (t.pending = [word 0x40000000 (sideAt 6 false)])) = true := by decide
  have ⟨t, ht, hc⟩ := exists_of_after h
  ⟨_, word 0x40000000 (sideAt 5 false), word 0x40000000 (sideAt 6 false), rfl, rfl, rfl, rfl, by decide, t, ht,
    by unfold NoResetIn; rw [of_decide_eq_true hc]; decide⟩

theorem witness_LastMuteOfAHaltedRun : ∃ (xs : List PortInput) (t : State),
    NoResetIn 2 (State.afterReset Params.reference Cfg.exampleE SideInputs.initial xs) ∧
    runSteps 2 (State.afterReset Params.reference Cfg.exampleE SideInputs.initial xs) = .next t ∧ t.halted = true :=
  have h : after (runSteps 2 (State.afterReset Params.reference Cfg.exampleE SideInputs.initial
      [word 0x20000000 (sideAt 0 false), word 0x40000000 (sideAt 5 false)])) (fun t => t.halted) = true := by decide
  have ⟨t, ht, hc⟩ := exists_of_after h
  ⟨_, t, by unfold NoResetIn; decide, ht, hc⟩

/-- A step that unmutes and one that mutes. -/
theorem witness_MuteWritesCarryEvents :
    State.reset.muted = true ∧
    (∃ t, step (given State.reset [word 0x20000000 (sideAt 0 false)]) = .next t ∧ (!t.muted) = true) ∧
    sIdle.muted = false ∧ ∃ t, step (given sIdle [word 0x40000000 (sideAt 0 false)]) = .next t ∧ t.muted = true :=
  ⟨rfl, exists_of_after (check := fun t => !t.muted) (by decide), rfl,
    exists_of_after (check := fun t => t.muted) (by decide)⟩

/-- STATE changes from SPINUP, and from IDLE by a tick. -/
theorem witness_StateChangesOnlyByAsmAndTick :
    (∃ t, step (given sSpin [word 0x20000000 (sideAt 3000 false)]) = .next t ∧ decide (t.state ≠ sSpin.state) = true) ∧
    ∃ t, step (given (sCount 2) [word 0x38000300 (sideAt 120 true)]) = .next t ∧
      decide (t.state ≠ (sCount 2).state) = true :=
  ⟨exists_of_after (by decide), exists_of_after (by decide)⟩

theorem witness_BusyChangesOnlyByClassify :
    (∃ t, step (given { sIdle with busy := true } [resetWith]) = .next t) ∧
    ∃ t, step (given (sCount 2) [word 0x18000300 (sideAt 120 true)]) = .next t ∧ t.busy ≠ (sCount 2).busy :=
  ⟨(exists_of_after (check := fun _ => true) (by decide)).imp fun _ h => h.1,
    (exists_of_after (check := fun t => t.busy) (by decide)).imp fun _ h => ⟨h.1, by rw [h.2]; decide⟩⟩

/-- A reset, an FLT, and a later command on the faulted block. -/
theorem witness_FaultRegistersOnlyByFlt :
    (∃ t, step (given { sHalted with faulted := true } [resetWith]) = .next t) ∧
    (∃ t, step (given sIdle [word 0x500000AB (sideAt 5 false)]) = .next t ∧ t.faulted ≠ sIdle.faulted) ∧
    ∃ t, step (given { sHalted with faulted := true } [word 0x50000001 (sideAt 5 false)]) = .next t :=
  ⟨(exists_of_after (check := fun _ => true) (by decide)).imp fun _ h => h.1,
    (exists_of_after (check := fun t => t.faulted) (by decide)).imp fun _ h => ⟨h.1, by rw [h.2]; decide⟩,
    (exists_of_after (check := fun _ => true) (by decide)).imp fun _ h => h.1⟩

/-- A reset, an illegal word on a clear ILLEGAL, and a legal word on a set one. -/
theorem witness_IllegalIsSticky :
    (∃ t, step (given { sIdle with illegal := true } [resetWith]) = .next t) ∧
    sIdle.illegal = false ∧ (∃ t, step (given sIdle [word 0xF0000000 (sideAt 5 false)]) = .next t) ∧
    ∃ t, step (given { sIdle with illegal := true } [word 0x00000000 (sideAt 5 false)]) = .next t :=
  ⟨(exists_of_after (check := fun _ => true) (by decide)).imp fun _ h => h.1, rfl,
    (exists_of_after (check := fun _ => true) (by decide)).imp fun _ h => h.1,
    (exists_of_after (check := fun _ => true) (by decide)).imp fun _ h => h.1⟩

theorem witness_TchgIsTheTransitionTime : ∃ t, step (given sIdle [word 0x28000000 (sideAt 500 true)]) = .next t ∧
    decide (t.tchg ≠ sIdle.tchg ∧ sIdle.state ≠ .spinup ∧ t.state ≠ sIdle.state ∧ sIdle.hold = false ∧ t.hold = true) =
      true := exists_of_after (by decide)

theorem witness_LastChangesToNow : ∃ t, step (given sIdle [word 0x10000000 (sideAt 51 true)]) = .next t ∧
    decide (t.last ≠ sIdle.last) = true := exists_of_after (by decide)

/-- A step with each log code. -/
theorem witness_LogArguments :
    (∃ t, step (given State.reset [word 0x20000000 { sideAt 0 false with okSpinup := false }]) = .next t ∧
      decide (Event.log .sampleUnavailable 0 ∈ t.events) = true) ∧
    (∃ t, step (given { State.reset with cfg := cfgZero } [word 0x20000000 (sideAt 0 false)]) = .next t ∧
      decide (Event.log .configInvalid 3 ∈ t.events) = true) ∧
    (∃ t, step (given sIdle [word 0xF0000000 (sideAt 0 false)]) = .next t ∧
      decide (Event.log .illegalCommand 15 ∈ t.events) = true) ∧
    ∃ t, step (given sIdle [word 0x5000FFFF (sideAt 0 false)]) = .next t ∧
      decide (Event.log .runtimeFault 0xFFFF ∈ t.events) = true :=
  ⟨exists_of_after (by decide), exists_of_after (by decide), exists_of_after (by decide), exists_of_after (by decide)⟩

/-- An RDS, another command, and a reset. -/
theorem witness_RdataAndLevelOutputs :
    (∃ t, step (given sAcc [word 0x60000000 (sideAt 0 false)]) = .next t ∧ decide (t.rdata = 2) = true) ∧
    (∃ t, step (given { sAcc with rdata := 2 } [word 0x10000000 (sideAt 0 false)]) = .next t ∧
      decide (t.rdata = 0) = true) ∧
    ∃ t, step (given { sAcc with rdata := 2 } [resetWith]) = .next t ∧ decide (t.rdata = 0) = true :=
  ⟨exists_of_after (by decide), exists_of_after (by decide), exists_of_after (by decide)⟩

theorem witness_StepKeepsInvariants : ∃ s t, Inv s ∧ step s = .next t :=
  have h : after (step (given (sCount 2) [word 0x38000300 (sideAt 120 true)])) (fun _ => true) = true := by decide
  have ⟨t, ht, _⟩ := exists_of_after h
  ⟨_, t, by constructor <;> decide, ht⟩

theorem witness_StepKeepsWidths : ∃ s t, InWidths s ∧ step s = .next t :=
  have h : after (step (given (sCount 2) [word 0x38000300 (sideAt 120 true)])) (fun _ => true) = true := by decide
  have ⟨t, ht, _⟩ := exists_of_after h
  ⟨_, t, by constructor <;> decide, ht⟩

/-- A reset state of the reference widths; and a reset of a block of the smallest widths, from pins that are wider. -/
theorem witness_ResetMeetsWidths :
    CfgInWidths Params.reference Cfg.exampleE ∧ SideInputs.initial.now.toNat < 2 ^ Params.reference.wT ∧
    ∃ s t : State, s.params.wA = 1 ∧ s.pending = [resetWith] ∧ resetWith.reset = true ∧
    step s = .next t :=
  ⟨by constructor <;> decide, by decide, { given sHalted [resetWith] with
      params := { wA := 1, wT := 8, wTH := 1, wA_legal := by decide, wT_legal := by decide, wTH_legal := by decide } },
    _, rfl, rfl, rfl, rfl⟩

/-- A legal and an illegal word. -/
theorem witness_EveryStepCompletes :
    (given sIdle [word 0x70000000 (sideAt 5 false)]).pending = [word 0x70000000 (sideAt 5 false)] ∧
    (given sIdle [word 0x30000000 (sideAt 5 false)]).pending = [word 0x30000000 (sideAt 5 false)] ∧
    sIdle.initialised = true := by decide

end Sys2Proof.Tests
end

section
/-! PROOFS. The scope of the model: the widths of R8, R20, R21 and R27 hold after reset and every step keeps them; a step
needs a presented command word. -/

namespace Sys2Proof.Machine

/-! ## Widths after reset -/

/-- A latched configuration fits its ports (log 4). -/
theorem cfgInWidths_latchCfg (p : Params) (c : Cfg) : CfgInWidths p (latchCfg p c) where
  dataPort_lt := lowBits_lt p.wA c.dataPort
  statusPort_lt := lowBits_lt p.wA c.statusPort
  threshold_lt := lowBits_lt p.wTH c.threshold
  timeout_lt := lowBits_lt p.wT c.timeout
  minDelay_lt := lowBits_lt p.wT c.minDelay

/-- A sampled time fits `in.now` (R37; log 4). -/
theorem sampleSide_now_lt (p : Params) (x : SideInputs) : (sampleSide p x).now.toNat < 2 ^ p.wT :=
  lowBits_lt p.wT x.now

/-- The reset values are 0, so only the configuration and the time have to fit (R41). -/
theorem inWidths_afterReset {p : Params} {c : Cfg} {side : SideInputs} (xs : List PortInput) (hc : CfgInWidths p c)
    (hn : side.now.toNat < 2 ^ p.wT) : InWidths (State.afterReset p c side xs) where
  dcnt_lt := Nat.two_pow_pos p.wC
  scnt_lt := Nat.two_pow_pos p.wC
  last_lt := Nat.two_pow_pos p.wT
  tchg_lt := Nat.two_pow_pos p.wT
  now_lt := hn
  dataPort_lt := hc.dataPort_lt
  statusPort_lt := hc.statusPort_lt
  threshold_lt := hc.threshold_lt
  timeout_lt := hc.timeout_lt
  minDelay_lt := hc.minDelay_lt

/-- A step with reset fits every value to its width, whatever the state before it (R240). -/
theorem inWidths_resetBlock (x : PortInput) (s : State) : InWidths (resetBlock x s) := by
  rw [resetBlock_eq]
  exact inWidths_afterReset _ (cfgInWidths_latchCfg _ _) (sampleSide_now_lt _ _)

/-! ## Widths along the shared operations -/

/-- The threshold fits a counter, which is one bit wider (R27). -/
theorem InWidths.threshold_lt_wC {s : State} (h : InWidths s) : s.cfg.threshold.toNat < 2 ^ s.params.wC :=
  h.threshold_lt.trans (Nat.pow_lt_pow_right one_lt_two (Nat.lt_succ_self _))

theorem InWidths.beginStep {s : State} (h : InWidths s) (x : PortInput) : InWidths (beginStep x s) :=
  { h with now_lt := sampleSide_now_lt s.params x.side }

theorem InWidths.enterHalt {s : State} (h : InWidths s) : InWidths (enterHalt s) := { h with }

theorem InWidths.faultShutdown {s : State} (h : InWidths s) (info : Info) : InWidths (faultShutdown info s) :=
  { h with }

/-- The HALTED filter keeps the widths if the effect under it does (R186). -/
theorem InWidths.whenRunning {f : State → State} {s : State} (h : InWidths s) (hf : InWidths (f s)) :
    InWidths (whenRunning f s) := by
  rcases whenRunning_cases f s with ⟨-, e⟩ | ⟨-, e⟩ <;> rw [e]
  · exact h
  · exact hf

theorem InWidths.illegalWord {s : State} (h : InWidths s) (cmd : Word) : InWidths (illegalWord cmd s) :=
  h.whenRunning { h with }

/-- Firing bounds both counters by the threshold (R115), and LAST is a sampled time (R28). -/
theorem InWidths.classify {s : State} (h : InWidths s) (v : Option BusSample) : InWidths (classify v s) := by
  obtain ⟨hd, hc⟩ := classify_bounded v s
  have hl : (Machine.classify v s).last.toNat < 2 ^ s.params.wT := by
    rcases classify_last v s with e | e <;> rw [e]
    · exact h.last_lt
    · exact h.now_lt
  obtain ⟨d, c, l, bu, e⟩ := classify_frame v s
  rw [e] at hd hc hl ⊢
  exact { h with dcnt_lt := hd.trans_lt h.threshold_lt_wC, scnt_lt := hc.trans_lt h.threshold_lt_wC, last_lt := hl }

/-- A state-machine step leaves TCHG or writes the current time to it (R29, R146). -/
theorem asmStep_tchg (b : Bool) (s : State) :
    (asmStep b s).tchg = s.tchg ∨ (asmStep b s).tchg = s.side.now := by
  rcases asmStep_cases b s with ⟨-, -, e⟩ | ⟨-, -, -, e⟩ | ⟨-, -, -, e⟩ | ⟨cur, -, -, -, -, e⟩ |
    ⟨cur, -, -, -, -, e⟩ | ⟨cur, -, -, e⟩ <;> rw [e]
  · exact .inl (by rw [spinUpStart_eq])
  · exact .inl rfl
  · exact .inl (by rw [spinUpDone_eq])
  · exact .inr (by rw [guardTest_eq]; rfl)
  · exact .inl (by rw [restartOnStop_eq, guardTest_eq]; rfl)
  · exact .inl (by rw [restartOnStop_eq, guardTest_eq])

/-- TCHG is a sampled time (R29); nothing else a state-machine step writes has a width of R8. -/
theorem InWidths.asmStep {s : State} (h : InWidths s) (b : Bool) : InWidths (asmStep b s) := by
  have ht : (Machine.asmStep b s).tchg.toNat < 2 ^ s.params.wT := by
    rcases asmStep_tchg b s with e | e <;> rw [e]
    · exact h.tchg_lt
    · exact h.now_lt
  obtain ⟨st, tc, ho, sp, mu, es, e⟩ := asmStep_frame b s
  rw [e] at ht ⊢
  exact { h with tchg_lt := ht }

theorem InWidths.tickStep {s : State} (h : InWidths s) (v : Option BusSample) : InWidths (tickStep v s) := by
  by_cases hs : s.state = .spinup
  · rw [tickStep_spinup v hs]
    exact h.asmStep false
  · rw [tickStep_looping v hs]
    exact (h.classify v).asmStep _

/-- Every command keeps every value within its width. -/
theorem InWidths.execState {s : State} (h : InWidths s) (i : Instr) : InWidths (execState i s) := by
  cases i with
  | nop => exact h
  | cls => exact h.whenRunning (h.classify none)
  | clsS k a => exact h.whenRunning (h.classify _)
  | asm b => exact h.whenRunning (h.asmStep b)
  | tick => exact h.whenRunning (h.tickStep none)
  | tickS k a => exact h.whenRunning (h.tickStep _)
  | shdn => exact h.whenRunning h.enterHalt
  | flt info => exact h.whenRunning (h.faultShutdown info)
  | rds idx => exact { h with }

/-! ## The obligations -/

/-- Settles O58, by the three things a step can be: a reset, an illegal word, or a decoded command. -/
theorem stepKeepsWidths : Obligations.StepKeepsWidths := by
  intro s t h hstep
  obtain ⟨x, rest, hp, -⟩ := step_next_input hstep
  have hq : InWidths { s with pending := rest } := { h with }
  rcases step_next_cases hp hstep with ⟨-, e⟩ | ⟨-, -, -, e⟩ | ⟨-, -, i, -, e⟩ <;> rw [e]
  · exact inWidths_resetBlock x _
  · exact (hq.beginStep x).illegalWord x.cmd
  · exact (hq.beginStep x).execState i

/-- Settles O59: a reset step leaves the state after reset with a latched configuration and a sampled time. -/
theorem resetMeetsWidths : Obligations.ResetMeetsWidths := by
  refine ⟨fun p c side xs hc hn => inWidths_afterReset xs hc hn, fun s t x rest hp hr hstep => ?_⟩
  rw [step_cons hp, cycle_reset _ hr] at hstep
  cases hstep
  exact inWidths_resetBlock x _

/-- Settles O12: with nothing presented there is no input to take. -/
theorem stepWithoutCommandRefused : Obligations.StepWithoutCommandRefused := fun _ hp => step_nil hp

end Sys2Proof.Machine
end

section
/-! PROOFS. The registers: what each step writes to them, the values reset gives them, and the invariants of R43, which
reset establishes and every step keeps. -/

namespace Sys2Proof.Machine

/-! ## Legal words -/

/-- R90's test of an address, by a shift, is the test that the address fits W_A bits (R84). -/
theorem ushiftRight_test_eq_addrFits (wA : Nat) (a : Addr) :
    (wA == 16 || a >>> wA == 0) = addrFits wA a := by
  have hshift : a >>> wA = 0 ↔ a.toNat < 2 ^ wA := by
    rw [← BitVec.toNat_inj, BitVec.toNat_ushiftRight, Nat.shiftRight_eq_div_pow]
    exact Nat.div_eq_zero_iff_lt (Nat.two_pow_pos wA)
  have hwidth : wA = 16 → a.toNat < 2 ^ wA := fun h => h ▸ a.isLt
  rw [Bool.eq_iff_iff]
  simp only [addrFits, Bool.or_eq_true, beq_iff_eq, hshift, decide_eq_true_eq]
  exact or_iff_right_of_imp hwidth

@[simp] theorem toOption_instr (i : Instr) : (Decoded.instr i).toOption = some i := rfl
@[simp] theorem toOption_illegal (e : DecodeError) : (Decoded.illegal e).toOption = none := rfl

/-- Where only reserved bits are tested, the decoder reads an instruction exactly if they are 0 (R90). -/
theorem reservedBits_isSome {n : Nat} (bits : BitVec n) (i : Instr) (e : DecodeError) :
    (if bits = 0#n then Decoded.instr i else .illegal e).toOption.isSome = (bits == 0#n) := by
  by_cases h : bits = 0#n <;> simp [h]

/-- The classify operations read an instruction from exactly the words R90 takes for them. -/
theorem decodeClassify_isSome (wA : Nat) (op : Op) (bare : Instr) (sampled : Strobe → Addr → Instr) (w : Word) :
    (decodeClassify wA op bare sampled w).toOption.isSome =
      if w.getLsbD 27 == false then w.extractLsb 26 0 == 0
      else w.extractLsb 25 16 == 0 && (wA == 16 || (w.extractLsb 15 0) >>> wA == 0) := by
  rw [show w.extractLsb 15 0 = addrField w from rfl, ushiftRight_test_eq_addrFits]
  unfold decodeClassify vField
  cases w.getLsbD 27
  · exact reservedBits_isSome (w.extractLsb' 0 27) bare _
  · by_cases hz : w.extractLsb' 16 10 = 0#10 <;> cases addrFits wA (addrField w) <;> simp [hz, BitVec.extractLsb]

/-- The decoder reads an instruction from exactly the words R90 calls legal. -/
theorem decode_isSome_eq_legal (wA : Nat) (w : Word) : (decode wA w).toOption.isSome = legal wA w := by
  unfold legal decode
  rw [show w.extractLsb 31 28 = opField w from rfl]
  generalize opField w = op
  obtain ⟨n, hn⟩ := op
  interval_cases n -- in the order of the codes of R82
  · exact reservedBits_isSome (w.extractLsb' 0 28) _ _
  · exact decodeClassify_isSome wA .cls .cls .clsS w
  · exact reservedBits_isSome (w.extractLsb' 0 27) _ _
  · exact decodeClassify_isSome wA .tick .tick .tickS w
  · exact reservedBits_isSome (w.extractLsb' 0 28) _ _
  · exact reservedBits_isSome (w.extractLsb' 16 12) _ _
  · exact reservedBits_isSome (w.extractLsb' 8 20) _ _
  all_goals rfl -- the reserved codes 0x7 to 0xF

/-- A word is illegal exactly if the decoder reads no instruction from it (R90, R185). -/
theorem legal_eq_false_iff (wA : Nat) (w : Word) : legal wA w = false ↔ ∀ i, decode wA w ≠ .instr i := by
  rw [← decode_isSome_eq_legal]
  cases decode wA w <;> simp [Decoded.toOption]

/-! ## What a state-machine step can do -/

theorem takeTransition_eq (want : LoopState) (s : State) :
    takeTransition want s = { s with
      state := loopPlayback want
      tchg := s.side.now
      hold := true
      events := s.events ++ [.stop, .play (loopSample want) true] } := by
  simp [takeTransition, State.emit]

/-- What a state-machine step can do to the registers, with the MUTE events it emits (R141 to R148). -/
inductive AsmEffect (s : State) : State → Prop where
  /-- The spin-up start (R141). -/
  | start (es : List Event) (hstate : s.state = .spinup) (hspin : s.spin = false) (hmute : lastMute es = some false) :
      AsmEffect s { s with muted := false, spin := true, events := s.events ++ es }
  /-- The end of spin-up (R143). -/
  | done (es : List Event) (hstate : s.state = .spinup) (hmute : lastMute es = none) :
      AsmEffect s { s with state := .idle, events := s.events ++ es }
  /-- A transition between the looping states (R146). -/
  | transition (want : LoopState) (es : List Event) (hstate : s.state ≠ .spinup) (hwant : loopPlayback want ≠ s.state)
      (hmute : lastMute es = none) :
      AsmEffect s { s with
        state := loopPlayback want, tchg := s.side.now, hold := true, events := s.events ++ es }
  /-- No change of STATE: HOLD is kept or cleared (R142, R144, R147, R148). -/
  | stay (ho : Bool) (es : List Event) (hhold : s.hold = false → ho = false) (hmute : lastMute es = none) :
      AsmEffect s { s with hold := ho, events := s.events ++ es }

/-- Asking for a sample emits no MUTE event (R141, R143, R148). -/
theorem lastMute_playOrUnavailable (c : Bool) (smp : Sample) (loop : Bool) :
    lastMute [if c = true then .play smp loop else unavailable smp] = none := by
  cases c <;> rfl

/-- The restart rule emits no MUTE event (R148). -/
theorem lastMute_restart (playing c : Bool) (smp : Sample) :
    lastMute (if playing = true then [] else [if c = true then .play smp true else unavailable smp]) = none := by
  cases playing
  · exact lastMute_playOrUnavailable c smp true
  · rfl

/-- A state-machine step has one of these effects (R149). -/
theorem asmStep_effect (b : Bool) (s : State) : AsmEffect s (asmStep b s) := by
  have hguard : s.hold = false → (s.hold && !delayElapsed s) = false := by simp +contextual
  rcases asmStep_cases b s with ⟨hs, hp, e⟩ | ⟨-, -, -, e⟩ | ⟨hs, -, -, e⟩ | ⟨cur, hs, hne, -, -, e⟩ |
    ⟨cur, -, -, -, -, e⟩ | ⟨cur, -, -, e⟩ <;> rw [e]
  · rw [spinUpStart_eq, List.append_assoc, List.append_assoc]
    exact .start _ hs hp (by rw [lastMute_append, lastMute_append, lastMute_playOrUnavailable]; rfl)
  · simpa using AsmEffect.stay (s := s) s.hold [] id rfl
  · rw [spinUpDone_eq]
    exact .done _ hs (lastMute_playOrUnavailable _ _ _)
  · rw [takeTransition_eq, guardTest_eq]
    refine .transition (wanted b) _ (hs ▸ loopPlayback_ne_spinup cur) (fun h => hne ?_) rfl
    exact loopPlayback_injective (h.trans hs)
  · rw [restartOnStop_eq, guardTest_eq, emit_events, List.append_assoc]
    exact .stay _ _ hguard (by rw [lastMute_append, lastMute_restart]; rfl)
  · rw [restartOnStop_eq, guardTest_eq]
    exact .stay _ _ hguard (lastMute_restart _ _ _)

/-! ## What a step without reset can do -/

/-- What a step without reset can do, from the state `u` its inputs are sampled in: the effect of R185 or of the decoded
command, as far as the HALTED filter lets it through (R186, R188). -/
inductive CommandEffect (cmd : Word) (u : State) : State → Prop where
  /-- A NOP, or a halted block (R182, R186). -/
  | nothing : CommandEffect cmd u u
  /-- An illegal word (R185). -/
  | illegal (hcmd : ∀ i, decode u.params.wA cmd ≠ .instr i) (hrun : u.halted = false) :
      CommandEffect cmd u { u with
        illegal := true
        events := u.events ++ [.log .illegalCommand ((opField cmd).setWidth 16)] }
  /-- A register read (R187). -/
  | read (idx : Index) (hcmd : decode u.params.wA cmd = .instr (.rds idx)) :
      CommandEffect cmd u { u with rdata := readRegister u idx }
  /-- A classify cycle alone (R110). -/
  | classified (i : Instr) (v : Option BusSample) (hcmd : decode u.params.wA cmd = .instr i)
      (hclassifies : classifies i = true) (hdrives : drivesAudio i = false) (hrun : u.halted = false) :
      CommandEffect cmd u (classify v u)
  /-- A state-machine step alone: an ASM, or a TICK in SPINUP (R140, R180). -/
  | driven (i : Instr) (b : Bool) (hcmd : decode u.params.wA cmd = .instr i) (hdrives : drivesAudio i = true)
      (hrun : u.halted = false) :
      CommandEffect cmd u (asmStep b u)
  /-- A TICK outside SPINUP: a classify cycle and then a state-machine step (R180). -/
  | ticked (i : Instr) (v : Option BusSample) (b : Bool) (hcmd : decode u.params.wA cmd = .instr i)
      (hclassifies : classifies i = true) (hdrives : drivesAudio i = true) (hrun : u.halted = false)
      (hstate : u.state ≠ .spinup) :
      CommandEffect cmd u (asmStep b (classify v u))
  /-- A shutdown (R183). -/
  | shutDown (hrun : u.halted = false) : CommandEffect cmd u (enterHalt u)
  /-- A fault report (R184). -/
  | faulted (info : Info) (hcmd : decode u.params.wA cmd = .instr (.flt info)) (hrun : u.halted = false) :
      CommandEffect cmd u (faultShutdown info u)

/-- Under the HALTED filter only a running block has to be looked at (R186). -/
theorem CommandEffect.whenRunning {cmd : Word} {u : State} {f : State → State}
    (h : u.halted = false → CommandEffect cmd u (f u)) : CommandEffect cmd u (whenRunning f u) := by
  rcases whenRunning_cases f u with ⟨-, e⟩ | ⟨hrun, e⟩ <;> rw [e]
  · exact .nothing
  · exact h hrun

theorem CommandEffect.tickStep {cmd : Word} {u : State} {i : Instr} (v : Option BusSample)
    (hcmd : decode u.params.wA cmd = .instr i) (hclassifies : classifies i = true) (hdrives : drivesAudio i = true)
    (hrun : u.halted = false) : CommandEffect cmd u (tickStep v u) := by
  by_cases hstate : u.state = .spinup
  · rw [tickStep_spinup v hstate]
    exact .driven i false hcmd hdrives hrun
  · rw [tickStep_looping v hstate]
    exact .ticked i v _ hcmd hclassifies hdrives hrun hstate

/-- The decoded command has one of these effects (R188). -/
theorem execState_effect {cmd : Word} {u : State} {i : Instr} (hcmd : decode u.params.wA cmd = .instr i) :
    CommandEffect cmd u (execState i u) := by
  cases i with
  | nop => exact .nothing
  | cls => exact .whenRunning (.classified _ none hcmd rfl rfl)
  | clsS k a => exact .whenRunning (.classified _ _ hcmd rfl rfl)
  | asm b => exact .whenRunning (.driven _ b hcmd rfl)
  | tick => exact .whenRunning (.tickStep none hcmd rfl rfl)
  | tickS k a => exact .whenRunning (.tickStep _ hcmd rfl rfl)
  | shdn => exact .whenRunning .shutDown
  | flt info => exact .whenRunning (.faulted info hcmd)
  | rds idx => exact .read idx hcmd

/-! ## One step, by its input -/

section

variable {s t : State} {x : PortInput} {rest : List PortInput}

/-- A step with reset asserted (R240). -/
theorem step_reset_eq (hp : s.pending = x :: rest) (hr : x.reset = true) (h : step s = .next t) :
    t = resetBlock x { s with pending := rest } := by
  rw [step_cons hp, cycle_reset _ hr] at h
  cases h
  rfl

/-- A step with an illegal word (R185). -/
theorem step_illegal_eq (hp : s.pending = x :: rest) (hr : x.reset = false)
    (hcmd : ∀ i, decode s.params.wA x.cmd ≠ .instr i) (h : step s = .next t) :
    t = illegalWord x.cmd (beginStep x { s with pending := rest }) := by
  rcases step_next_cases hp h with ⟨hr', -⟩ | ⟨-, -, -, e⟩ | ⟨-, -, i, hi, -⟩
  · simp [hr] at hr'
  · exact e
  · exact absurd hi (hcmd i)

/-- A step with a legal word (R188). -/
theorem step_instr_eq {i : Instr} (hp : s.pending = x :: rest) (hr : x.reset = false)
    (hcmd : decode s.params.wA x.cmd = .instr i) (h : step s = .next t) :
    t = execState i (beginStep x { s with pending := rest }) := by
  rcases step_next_cases hp h with ⟨hr', -⟩ | ⟨-, -, hn, -⟩ | ⟨-, -, j, hj, e⟩
  · simp [hr] at hr'
  · exact absurd hcmd (hn i)
  · cases hcmd.symm.trans hj
    exact e

/-- Every step without reset has one of the effects of `CommandEffect`. -/
theorem step_effect (hp : s.pending = x :: rest) (hr : x.reset = false) (h : step s = .next t) :
    CommandEffect x.cmd (beginStep x { s with pending := rest }) t := by
  rcases step_next_cases hp h with ⟨hr', -⟩ | ⟨-, -, hcmd, e⟩ | ⟨-, -, i, hcmd, e⟩
  · simp [hr] at hr'
  · rcases illegalWord_cases x.cmd (beginStep x { s with pending := rest }) with ⟨-, g⟩ | ⟨hrun, g⟩ <;> rw [e, g]
    · exact .nothing
    · exact .illegal hcmd hrun
  · rw [e]
    exact execState_effect hcmd

end

/-! ## The invariants of R43 -/

theorem inv_afterReset (p : Params) (c : Cfg) (side : SideInputs) (xs : List PortInput) :
    Inv (State.afterReset p c side xs) where
  dcnt_le := Nat.zero_le _
  scnt_le := Nat.zero_le _
  spinup_hold _ := rfl
  unmuted := nofun
  halted_muted := nofun
  faulted_halted := nofun
  spinup_tchg _ := rfl

theorem Inv.beginStep {s : State} (h : Inv s) (x : PortInput) : Inv (beginStep x s) := { h with }

/-- Firing bounds both counters by the threshold, whatever they were (R43 item 1, R115). -/
theorem Inv.classify {s : State} (h : Inv s) (v : Option BusSample) : Inv (classify v s) := by
  obtain ⟨hd, hc⟩ := classify_bounded v s
  obtain ⟨d, c, l, bu, e⟩ := classify_frame v s
  rw [e] at hd hc ⊢
  exact { h with dcnt_le := hd, scnt_le := hc }

/-- On a running block only the spin-up start unmutes, and it sets SPIN; a state-machine step that arms the hold or
writes TCHG leaves the block outside SPINUP (R43 items 3 and 4, R143). -/
theorem AsmEffect.keeps_inv {s t : State} (he : AsmEffect s t) (h : Inv s) (hrun : s.halted = false) : Inv t := by
  cases he with
  | start es hstate hspin hmute =>
    exact { h with unmuted := fun _ => ⟨rfl, hrun⟩, halted_muted := fun hh => absurd (hrun.symm.trans hh) nofun }
  | done es hstate hmute => exact { h with spinup_hold := nofun, spinup_tchg := nofun }
  | transition want es hstate hwant hmute =>
    exact { h with
      spinup_hold := fun hs => absurd hs (loopPlayback_ne_spinup want)
      spinup_tchg := fun hs => absurd hs (loopPlayback_ne_spinup want) }
  | stay ho es hhold hmute => exact { h with spinup_hold := fun hs => hhold (h.spinup_hold hs) }

/-- Halting mutes in the same step (R43 items 4 to 6). -/
theorem Inv.enterHalt {s : State} (h : Inv s) : Inv (enterHalt s) :=
  { h with unmuted := nofun, halted_muted := fun _ => rfl, faulted_halted := fun _ => rfl }

theorem Inv.faultShutdown {s : State} (h : Inv s) (info : Info) : Inv (faultShutdown info s) :=
  { h.enterHalt with faulted_halted := fun _ => rfl }

/-- Every effect of a step without reset keeps the invariants. -/
theorem CommandEffect.keeps_inv {cmd : Word} {u t : State} (he : CommandEffect cmd u t) (h : Inv u) : Inv t := by
  cases he with
  | nothing => exact h
  | illegal => exact { h with }
  | read => exact { h with }
  | classified i v => exact h.classify v
  | driven i b _ _ hrun => exact (asmStep_effect b u).keeps_inv h hrun
  | ticked i v b _ _ _ hrun =>
    exact (asmStep_effect b (Machine.classify v u)).keeps_inv (h.classify v) ((classify_halted v u).trans hrun)
  | shutDown => exact h.enterHalt
  | faulted info => exact h.faultShutdown info

/-- Settles O56: a reset step leaves the state after reset, and every effect of another step keeps the invariants. -/
theorem stepKeepsInvariants : Obligations.StepKeepsInvariants := by
  intro s t hinv h
  obtain ⟨x, rest, hp, -⟩ := step_next_input h
  have hq : Inv { s with pending := rest } := { hinv with }
  cases hr : x.reset with
  | true =>
    rw [step_reset_eq hp hr h, resetBlock_eq]
    exact inv_afterReset _ _ _ _
  | false => exact (step_effect hp hr h).keeps_inv (hq.beginStep x)

/-- Settles O57, the base case of O56. -/
theorem resetMeetsInvariants : Obligations.ResetMeetsInvariants := inv_afterReset

/-! ## MUTED (R32) -/

/-- What R32 and R190 say of a step without reset: MUTED becomes the value of the last MUTE event, only the spin-up start
unmutes, and only halting mutes. -/
def MuteRule (s t : State) : Prop :=
  t.muted = (lastMute t.events).getD s.muted ∧
  (s.muted = true → t.muted = false → s.state = .spinup ∧ s.spin = false ∧ t.spin = true) ∧
  (s.muted = false → t.muted = true → s.halted = false ∧ t.halted = true)

theorem AsmEffect.muteRule {s t : State} (he : AsmEffect s t) (hev : s.events = []) : MuteRule s t := by
  cases he with
  | start es hstate hspin hmute => simp [MuteRule, hev, hmute, hstate, hspin]
  | done es _ hmute | transition want es _ _ hmute | stay ho es _ hmute =>
    simp +contextual [MuteRule, hev, hmute]

theorem CommandEffect.muteRule {cmd : Word} {u t : State} (he : CommandEffect cmd u t) (hev : u.events = []) :
    MuteRule u t := by
  cases he with
  | nothing | illegal | read | classified => simp +contextual [MuteRule, hev, lastMute]
  | driven i b => exact (asmStep_effect b u).muteRule hev
  | ticked i v b =>
    have hasm := (asmStep_effect b (classify v u)).muteRule ((classify_events v u).trans hev)
    simpa [MuteRule] using hasm
  | shutDown hrun => simp [MuteRule, hev, hrun, lastMute]
  | faulted info _ hrun => simp [MuteRule, faultShutdown, hev, hrun, lastMute]

/-- Settles O47: every effect of a step, which starts with no event, obeys the rule of MUTED. -/
theorem muteWritesCarryEvents : Obligations.MuteWritesCarryEvents :=
  fun _ _ _ _ hp hr h => (step_effect hp hr h).muteRule rfl

/-! ## STATE, TCHG and HOLD (R23, R29, R30) -/

/-- A state-machine step never enters SPINUP, and leaves it to IDLE only (R143, R146). -/
theorem AsmEffect.state_change {s t : State} (he : AsmEffect s t) (hne : t.state ≠ s.state) :
    t.state ≠ .spinup ∧ (s.state = .spinup → t.state = .idle) := by
  cases he with
  | start | stay => exact absurd rfl hne
  | done => exact ⟨nofun, fun _ => rfl⟩
  | transition want es hstate => exact ⟨loopPlayback_ne_spinup want, fun hs => absurd hs hstate⟩

/-- Settles O48: only the effects with a state-machine step write STATE. -/
theorem stateChangesOnlyByAsmAndTick : Obligations.StateChangesOnlyByAsmAndTick := by
  intro s t x rest hp hr h hne
  cases step_effect hp hr h with
  | nothing | illegal | read | shutDown | faulted => simp [faultShutdown] at hne
  | classified i v => exact absurd (classify_state v _) hne
  | driven i b hcmd hdrives hrun => exact ⟨⟨i, hcmd, hdrives⟩, hrun, (asmStep_effect b _).state_change hne⟩
  | ticked i v b hcmd _ hdrives hrun =>
    have hasm := (asmStep_effect b (classify v (beginStep x { s with pending := rest }))).state_change
    simp only [classify_state] at hasm
    exact ⟨⟨i, hcmd, hdrives⟩, hrun, hasm hne⟩

/-- What R29, R30 and R146 say of a step without reset: TCHG is written, to the step's time, and the hold is armed, by a
transition between the looping states and by nothing else. -/
def TransitionRule (s t : State) : Prop :=
  (t.tchg ≠ s.tchg → t.tchg = t.side.now ∧ s.state ≠ .spinup ∧ t.state ≠ s.state) ∧
  (s.state ≠ .spinup → t.state ≠ s.state → t.tchg = t.side.now ∧ t.hold = true) ∧
  (s.hold = false → t.hold = true → s.state ≠ .spinup ∧ t.state ≠ s.state)

theorem AsmEffect.transitionRule {s t : State} (he : AsmEffect s t) : TransitionRule s t := by
  cases he with
  | start => simp +contextual [TransitionRule]
  | done es hstate => simp +contextual [TransitionRule, hstate]
  | transition want es hstate hwant => simp [TransitionRule, hstate, hwant]
  | stay ho es hhold => simp +contextual [TransitionRule, hhold]

theorem CommandEffect.transitionRule {cmd : Word} {u t : State} (he : CommandEffect cmd u t) : TransitionRule u t := by
  cases he with
  | nothing | illegal | read | classified | shutDown => simp +contextual [TransitionRule]
  | faulted => simp +contextual [TransitionRule, faultShutdown]
  | driven i b => exact (asmStep_effect b u).transitionRule
  | ticked i v b => simpa [TransitionRule] using (asmStep_effect b (classify v u)).transitionRule

/-- Settles O52: every effect of a step obeys the rule of TCHG and HOLD. -/
theorem tchgIsTheTransitionTime : Obligations.TchgIsTheTransitionTime :=
  fun _ _ _ _ hp hr h => (step_effect hp hr h).transitionRule

/-! ## BUSY and LAST (R24, R28) -/

/-- Settles O49: only the effects with a classify cycle write BUSY. -/
theorem busyChangesOnlyByClassify : Obligations.BusyChangesOnlyByClassify := by
  intro s t x rest hp h
  refine ⟨fun hr => ?_, fun hr hne => ?_⟩
  · rw [step_reset_eq hp hr h]
    rfl
  · cases step_effect hp hr h with
    | nothing | illegal | read | shutDown | faulted => simp [faultShutdown] at hne
    | driven i b => exact absurd (asmStep_busy b _) hne
    | classified i v hcmd hclassifies hdrives hrun =>
      exact ⟨⟨i, hcmd, hclassifies, fun hd => absurd (hdrives.symm.trans hd) nofun⟩, hrun⟩
    | ticked i v b hcmd hclassifies _ hrun hstate => exact ⟨⟨i, hcmd, hclassifies, fun _ => hstate⟩, hrun⟩

/-- Settles O53: only the effects with a classify cycle write LAST, and they write the time the step sampled. -/
theorem lastChangesToNow : Obligations.LastChangesToNow := by
  intro s t x rest hp hr h hne
  cases step_effect hp hr h with
  | nothing | illegal | read | shutDown | faulted => simp [faultShutdown] at hne
  | driven i b => exact absurd (asmStep_last b _) hne
  | classified i v hcmd hclassifies _ hrun =>
    exact ⟨(classify_last v _).resolve_left hne, hrun, i, hcmd, hclassifies⟩
  | ticked i v b hcmd hclassifies _ hrun =>
    rw [asmStep_last] at hne ⊢
    exact ⟨(classify_last v _).resolve_left hne, hrun, i, hcmd, hclassifies⟩

/-! ## FAULTED, FINFO and ILLEGAL (R34, R35, R36) -/

/-- FLT is the only command that writes the fault registers (R34, R35). -/
theorem CommandEffect.fault_registers {cmd : Word} {u t : State} (he : CommandEffect cmd u t) :
    (t.faulted = u.faulted ∧ t.finfo = u.finfo) ∨
    (t.faulted = true ∧ ∃ info, decode u.params.wA cmd = .instr (.flt info) ∧ u.halted = false) := by
  cases he with
  | nothing | illegal | read | classified | driven | ticked | shutDown => exact .inl (by simp)
  | faulted info hcmd hrun => exact .inr ⟨rfl, info, hcmd, hrun⟩

/-- Settles O50: FLT is the one effect that writes the fault registers. -/
theorem faultRegistersOnlyByFlt : Obligations.FaultRegistersOnlyByFlt := by
  intro s t x rest hp h
  refine ⟨fun hr => ?_, fun hr hf => ?_, fun info hr hcmd hrun => ?_, fun hr hne => ?_⟩
  · rw [step_reset_eq hp hr h]
    exact ⟨rfl, rfl⟩
  · rcases (step_effect hp hr h).fault_registers with ⟨hkeep, -⟩ | ⟨hset, -⟩
    · exact hkeep.trans hf
    · exact hset
  · rw [step_instr_eq hp hr hcmd h, execState, whenRunning_running _ (s := beginStep x { s with pending := rest }) hrun]
    exact ⟨rfl, rfl⟩
  · rcases (step_effect hp hr h).fault_registers with ⟨hfaulted, hfinfo⟩ | ⟨-, hflt⟩
    · exact absurd hne (by simp [hfaulted, hfinfo])
    · exact hflt

/-- An illegal word is the only one that writes ILLEGAL (R36). -/
theorem CommandEffect.illegal_register {cmd : Word} {u t : State} (he : CommandEffect cmd u t) :
    t.illegal = u.illegal ∨
    (t.illegal = true ∧ (∀ i, decode u.params.wA cmd ≠ .instr i) ∧ u.halted = false) := by
  cases he with
  | nothing | read | classified | driven | ticked | shutDown | faulted => exact .inl (by simp [faultShutdown])
  | illegal hcmd hrun => exact .inr ⟨rfl, hcmd, hrun⟩

/-- Settles O51, with the decoder's view of a legal word (R90). -/
theorem illegalIsSticky : Obligations.IllegalIsSticky := by
  intro s t x rest hp h
  simp only [legal_eq_false_iff]
  refine ⟨fun hr => ?_, fun hr hi => ?_, fun hr hi => ⟨fun ht => ?_, fun ⟨hcmd, hrun⟩ => ?_⟩⟩
  · rw [step_reset_eq hp hr h]
    rfl
  · rcases (step_effect hp hr h).illegal_register with hkeep | ⟨hset, -⟩
    · exact hkeep.trans hi
    · exact hset
  · rcases (step_effect hp hr h).illegal_register with hkeep | ⟨-, hcause⟩
    · exact absurd (ht.symm.trans (hkeep.trans hi)) nofun
    · exact hcause
  · rw [step_illegal_eq hp hr hcmd h, illegalWord, whenRunning_running _ (s := beginStep x { s with pending := rest }) hrun]
    rfl

/-! ## The outputs and the reset values (R39, R20) -/

/-- No command but RDS writes `rdata` (R39, R187). -/
theorem CommandEffect.rdata_eq {cmd : Word} {u t : State} (he : CommandEffect cmd u t)
    (hn : ∀ idx, decode u.params.wA cmd ≠ .instr (.rds idx)) : t.rdata = u.rdata := by
  cases he with
  | nothing | illegal | classified | driven | ticked | shutDown | faulted => simp [faultShutdown]
  | read idx hcmd => exact absurd hcmd (hn idx)

/-- Settles O55: a step starts with `rdata` 0, and only a read writes it. -/
theorem rdataAndLevelOutputs : Obligations.RdataAndLevelOutputs := by
  intro s t x rest hp h
  refine ⟨?_, fun idx hr hcmd => ?_, fun hn => ?_⟩
  · unfold outputs stateCode
    cases t.state <;> rfl
  · rw [step_instr_eq hp hr hcmd h]
    rfl
  · cases hr : x.reset with
    | true =>
      rw [step_reset_eq hp hr h]
      rfl
    | false => exact (step_effect hp hr h).rdata_eq (hn.resolve_left (by simp [hr]))

/-- Settles O10, register by register. -/
theorem resetStateRegisters : Obligations.ResetStateRegisters :=
  ⟨rfl, rfl, rfl, rfl, rfl, rfl, rfl, rfl, rfl, rfl, rfl, rfl, rfl, rfl, rfl⟩

end Sys2Proof.Machine
end

section
/-! PROOFS. The byte order of R62: the four bytes of a word put together again are the word, and fewer than four give
none. -/

namespace Sys2Proof

/-- The four bytes of a word are adjacent fields of it, so putting them together gives the word (R62). -/
@[simp] theorem wordOfBytes_byteOf (w : Word) :
    wordOfBytes (byteOf 0 w) (byteOf 1 w) (byteOf 2 w) (byteOf 3 w) = w := by
  have high : byteOf 3 w ++ byteOf 2 w = w.extractLsb' 16 16 :=
    BitVec.extractLsb'_append_extractLsb'_eq_extractLsb' rfl
  have middle : w.extractLsb' 16 16 ++ byteOf 1 w = w.extractLsb' 8 24 :=
    BitVec.extractLsb'_append_extractLsb'_eq_extractLsb' rfl
  have low : w.extractLsb' 8 24 ++ byteOf 0 w = w.extractLsb' 0 32 :=
    BitVec.extractLsb'_append_extractLsb'_eq_extractLsb' rfl
  rw [wordOfBytes, high, middle, low, BitVec.extractLsb'_eq_self]

@[simp] theorem takeCommand_cons_four (b0 b1 b2 b3 : Byte) (rest : List Byte) :
    takeCommand (b0 :: b1 :: b2 :: b3 :: rest) = some (wordOfBytes b0 b1 b2 b3, rest) := rfl

/-- Taking a command undoes laying it out, and leaves the bytes after it (R62). -/
theorem takeCommand_bytesOfWord_append (w : Word) (rest : List Byte) :
    takeCommand (bytesOfWord w ++ rest) = some (w, rest) := by
  simp [bytesOfWord]

theorem takeCommand_of_length_lt_four {bs : List Byte} (h : bs.length < 4) : takeCommand bs = none := by
  match bs, h with
  | [], _ | [_], _ | [_, _], _ | [_, _, _], _ => rfl

/-- Settles O6; the middle clause is the definition of the bytes. -/
theorem commandBytesLittleEndian : Obligations.CommandBytesLittleEndian :=
  ⟨takeCommand_bytesOfWord_append, fun _ => rfl, fun _ => takeCommand_of_length_lt_four⟩

end Sys2Proof
end

section
/-! PROOFS. The encoding of commands (R80 to R91, R96): the encoder and the decoder undo each other, the decoder reads
exactly the legal words, and a decoded word lies in one row of the opcode table. -/

namespace Sys2Proof

/-! ## The operation codes (R82) -/

/-- The code of an operation in R82's map. -/
def Op.code : Op → BitVec 4
  | .nop => 0x0
  | .cls => 0x1
  | .asm => 0x2
  | .tick => 0x3
  | .shdn => 0x4
  | .flt => 0x5
  | .rds => 0x6

/-- R82's map gives each operation one code. -/
theorem opOf_eq_some_iff {c : BitVec 4} {op : Op} : opOf c = some op ↔ c = op.code := by
  revert c
  cases op <;> decide

@[simp] theorem opOf_code (op : Op) : opOf op.code = some op := opOf_eq_some_iff.mpr rfl

/-! ## The fields of an encoded instruction -/

/-- The high half `oooo1k0000000000` of R84's pattern. -/
def sampledHigh (c : BitVec 4) (k : Strobe) : BitVec 16 := c ++ 1#1 ++ k.bit ++ 0#10

/-- The pattern `oooo1k0000000000aaaaaaaaaaaaaaaa` of R84. -/
def sampledWord (c : BitVec 4) (k : Strobe) (a : Addr) : Word := sampledHigh c k ++ a

theorem encode_clsS (k : Strobe) (a : Addr) : encode (.clsS k a) = sampledWord Op.cls.code k a := rfl

theorem encode_tickS (k : Strobe) (a : Addr) : encode (.tickS k a) = sampledWord Op.tick.code k a := rfl

section
variable (c : BitVec 4) (k : Strobe) (a : Addr)

/-- A bit above the address is a bit of the high half. -/
theorem getLsbD_sampledWord {n : Nat} (hn : 16 ≤ n) :
    (sampledWord c k a).getLsbD n = (sampledHigh c k).getLsbD (n - 16) :=
  BitVec.getLsbD_append.trans (if_neg hn.not_gt)

/-- A field above the address is a field of the high half. -/
theorem extractLsb'_sampledWord {start : Nat} (hstart : 16 ≤ start) (len : Nat) :
    (sampledWord c k a).extractLsb' start len = (sampledHigh c k).extractLsb' (start - 16) len :=
  BitVec.extractLsb'_append_eq_of_le hstart

@[simp] theorem opField_sampledWord : opField (sampledWord c k a) = c := by
  rw [opField, extractLsb'_sampledWord c k a (by decide)]
  cases k <;> revert c <;> decide

@[simp] theorem vField_sampledWord : vField (sampledWord c k a) = true := by
  rw [vField, getLsbD_sampledWord c k a (by decide)]
  cases k <;> revert c <;> decide

@[simp] theorem kField_sampledWord : kField (sampledWord c k a) = k := by
  rw [kField, getLsbD_sampledWord c k a (by decide)]
  cases k <;> revert c <;> decide

@[simp] theorem reservedBits_sampledWord : (sampledWord c k a).extractLsb' 16 10 = 0 := by
  rw [extractLsb'_sampledWord c k a le_rfl]
  cases k <;> revert c <;> decide

@[simp] theorem addrField_sampledWord : addrField (sampledWord c k a) = a := BitVec.extractLsb'_append_eq_right

end

section
variable (info : Info)

@[simp] theorem opField_encode_flt : opField (encode (.flt info)) = Op.flt.code :=
  (BitVec.extractLsb'_append_eq_of_le (by decide)).trans (by decide)

@[simp] theorem reservedBits_encode_flt : (encode (.flt info)).extractLsb' 16 12 = 0 :=
  (BitVec.extractLsb'_append_eq_of_le (by decide)).trans (by decide)

@[simp] theorem infoField_encode_flt : infoField (encode (.flt info)) = info := BitVec.extractLsb'_append_eq_right

end

section
variable (idx : Index)

@[simp] theorem opField_encode_rds : opField (encode (.rds idx)) = Op.rds.code :=
  (BitVec.extractLsb'_append_eq_of_le (by decide)).trans (by decide)

@[simp] theorem reservedBits_encode_rds : (encode (.rds idx)).extractLsb' 8 20 = 0 :=
  (BitVec.extractLsb'_append_eq_of_le (by decide)).trans (by decide)

@[simp] theorem idxField_encode_rds : idxField (encode (.rds idx)) = idx := BitVec.extractLsb'_append_eq_right

end

/-! ## Decoding an encoded instruction -/

/-- A classify operation reads the sample back, if the address fits the block. -/
theorem decodeClassify_sampledWord {wA : Nat} {a : Addr} (ha : addrFits wA a = true) (op : Op) (bare : Instr)
    (sampled : Strobe → Addr → Instr) (c : BitVec 4) (k : Strobe) :
    decodeClassify wA op bare sampled (sampledWord c k a) = .instr (sampled k a) := by
  simp [decodeClassify, ha]

/-- The decoder undoes the encoder on every well-formed instruction (R83 to R89). -/
theorem decode_encode {wA : Nat} {i : Instr} (hwf : i.wf wA = true) : decode wA (encode i) = .instr i := by
  cases i with
  | nop | cls | tick | shdn => rfl
  | asm b => cases b <;> rfl
  | clsS k a => simp [decode, encode_clsS, decodeClassify_sampledWord hwf]
  | tickS k a => simp [decode, encode_tickS, decodeClassify_sampledWord hwf]
  | flt info => simp [decode]
  | rds idx => simp [decode]

/-- Settles O1. -/
theorem decodeInvertsEncode : Obligations.DecodeInvertsEncode := fun _ _ => decode_encode

/-! ## A word is made of its fields -/

/-- A field of one bit is the bit. -/
theorem extractLsb'_one (w : Word) (n : Nat) : w.extractLsb' n 1 = BitVec.ofBool (w.getLsbD n) := by
  ext i hi
  obtain rfl : i = 0 := by omega
  simp

@[simp] theorem Strobe.bit_kField (w : Word) : (kField w).bit = w.extractLsb' 26 1 := by
  rw [extractLsb'_one, kField]
  cases w.getLsbD 26 <;> rfl

section
variable {w : Word} {c : BitVec 4}

/-- A word with OP alone (R83, R86). -/
theorem append_eq_of_opField (hop : opField w = c) (hz : w.extractLsb' 0 28 = 0#28) : c ++ 0#28 = w := by
  rw [← hop, ← hz]
  exact BitVec.extractLsb'_append_extractLsb' (w := 4) (len := 28)

/-- A word with OP and bit 27 alone (R84, R85). -/
theorem append_eq_of_opField_bit (hop : opField w = c) (hz : w.extractLsb' 0 27 = 0#27) :
    c ++ BitVec.ofBool (w.getLsbD 27) ++ 0#27 = w := by
  rw [← hop, ← hz, ← extractLsb'_one, opField, BitVec.extractLsb'_append_extractLsb'_eq_extractLsb' (by decide)]
  exact BitVec.extractLsb'_append_extractLsb' (w := 5) (len := 27)

/-- A word with OP and INFO alone (R87). -/
theorem append_eq_of_opField_infoField (hop : opField w = c) (hz : w.extractLsb' 16 12 = 0#12) :
    c ++ 0#12 ++ infoField w = w := by
  rw [← hop, ← hz, opField, BitVec.extractLsb'_append_extractLsb'_eq_extractLsb' (by decide)]
  exact BitVec.extractLsb'_append_extractLsb' (w := 16) (len := 16)

/-- A word with OP and IDX alone (R88). -/
theorem append_eq_of_opField_idxField (hop : opField w = c) (hz : w.extractLsb' 8 20 = 0#20) :
    c ++ 0#20 ++ idxField w = w := by
  rw [← hop, ← hz, opField, BitVec.extractLsb'_append_extractLsb'_eq_extractLsb' (by decide)]
  exact BitVec.extractLsb'_append_extractLsb' (w := 24) (len := 8)

/-- A word with V = 1 and the reserved bits 0 follows R84's pattern. -/
theorem sampledWord_fields (hop : opField w = c) (hv : vField w = true) (hz : w.extractLsb' 16 10 = 0#10) :
    sampledWord c (kField w) (addrField w) = w := by
  have hV : 1#1 = w.extractLsb' 27 1 := by rw [extractLsb'_one, ← vField, hv]; rfl
  rw [sampledWord, sampledHigh, Strobe.bit_kField, hV, ← hop, ← hz, opField]
  iterate 3 rw [BitVec.extractLsb'_append_extractLsb'_eq_extractLsb' (by decide)]
  exact BitVec.extractLsb'_append_extractLsb' (w := 16) (len := 16)

end

/-! ## Encoding a decoded word -/

/-- Where only reserved bits are tested, an instruction is read only if they are 0. -/
theorem reservedBits_eq_instr {n : Nat} {bits : BitVec n} {i j : Instr} {e : DecodeError}
    (h : (if bits = 0#n then Decoded.instr j else .illegal e) = .instr i) : bits = 0#n ∧ i = j := by
  split at h
  case isTrue hz => exact ⟨hz, (Decoded.instr.inj h).symm⟩
  case isFalse => cases h

/-- A classify operation reads either a word with OP alone or a word of R84's pattern with an address that fits. -/
theorem decodeClassify_eq_instr {wA : Nat} {op : Op} {bare i : Instr} {sampled : Strobe → Addr → Instr} {w : Word}
    {c : BitVec 4} (hop : opField w = c) (h : decodeClassify wA op bare sampled w = .instr i) :
    (i = bare ∧ c ++ 0#1 ++ 0#27 = w) ∨
    ∃ k a, i = sampled k a ∧ addrFits wA a = true ∧ sampledWord c k a = w := by
  unfold decodeClassify at h
  cases hv : vField w <;> simp only [hv, if_true, Bool.false_eq_true, if_false] at h
  case false =>
    obtain ⟨hz, hi⟩ := reservedBits_eq_instr h
    have hw := append_eq_of_opField_bit hop hz
    rw [← vField, hv] at hw
    exact .inl ⟨hi, hw⟩
  case true =>
    split at h
    · cases h
    next hz =>
    split at h
    · next ha => exact .inr ⟨_, _, (Decoded.instr.inj h).symm, ha, sampledWord_fields hop hv (not_not.mp hz)⟩
    · cases h

/-- What the decoder reads is well formed, and its encoding is the word: no bit is dropped (R81, R90). -/
theorem wf_and_encode_of_decode {wA : Nat} {w : Word} {i : Instr} (h : decode wA w = .instr i) :
    i.wf wA = true ∧ encode i = w := by
  unfold decode at h
  cases hop : opOf (opField w) with
  | none => rw [hop] at h; cases h
  | some op =>
    rw [hop] at h
    replace hop := opOf_eq_some_iff.mp hop
    cases op with
    | nop | shdn =>
      obtain ⟨hz, rfl⟩ := reservedBits_eq_instr h
      exact ⟨rfl, append_eq_of_opField hop hz⟩
    | asm =>
      obtain ⟨hz, rfl⟩ := reservedBits_eq_instr h
      exact ⟨rfl, append_eq_of_opField_bit hop hz⟩
    | flt =>
      obtain ⟨hz, rfl⟩ := reservedBits_eq_instr h
      exact ⟨rfl, append_eq_of_opField_infoField hop hz⟩
    | rds =>
      obtain ⟨hz, rfl⟩ := reservedBits_eq_instr h
      exact ⟨rfl, append_eq_of_opField_idxField hop hz⟩
    | cls | tick =>
      rcases decodeClassify_eq_instr hop h with ⟨rfl, hw⟩ | ⟨k, a, rfl, ha, hw⟩
      · exact ⟨rfl, hw⟩
      · exact ⟨ha, hw⟩

/-- Settles O3. -/
theorem decodedWordIsItsEncoding : Obligations.DecodedWordIsItsEncoding := fun _ _ _ => wf_and_encode_of_decode

/-! ## Legal words (R90) -/

/-- Settles O2, by the agreement of the decoder with `legal(cmd)`. -/
theorem decodesExactlyTheLegalWords : Obligations.DecodesExactlyTheLegalWords := by
  intro p w
  rw [← Machine.decode_isSome_eq_legal]
  cases decode p.wA w <;> simp [Decoded.toOption]

/-! ## The opcode table -/

/-- The word of an instruction is of its row, and the row is one of the table's. -/
theorem row_covers_encode_and_mem (i : Instr) : i.row.covers (encode i) = true ∧ i.row ∈ opcodeTable := by
  cases i with
  | nop => exact Laws.TableRow.nop
  | cls => exact Laws.TableRow.cls
  | clsS k a => exact Laws.TableRow.clsS k a
  | asm b => exact Laws.TableRow.asm b
  | tick => exact Laws.TableRow.tick
  | tickS k a => exact Laws.TableRow.tickS k a
  | shdn => exact Laws.TableRow.shdn
  | flt info => exact Laws.TableRow.flt info
  | rds idx => exact Laws.TableRow.rds idx

/-- Two rows that share a word fix the bits of both masks alike. -/
theorem OpRow.pattern_agree {r q : OpRow} {w : Word} (hr : r.covers w = true) (hq : q.covers w = true) :
    r.pattern &&& q.mask = q.pattern &&& r.mask := by
  rw [← beq_iff_eq.mp hr, ← beq_iff_eq.mp hq, BitVec.and_assoc, BitVec.and_comm r.mask, ← BitVec.and_assoc]

/-- No two rows of the table agree on the bits both fix. -/
theorem opcodeTable_pattern_agree_imp_eq :
    ∀ r ∈ opcodeTable, ∀ q ∈ opcodeTable, r.pattern &&& q.mask = q.pattern &&& r.mask → r = q := by
  decide

/-- Settles O4: the word is the encoding of its instruction, and no two rows of the table share a word. -/
theorem decodedWordLiesInItsTableRowOnly : Obligations.DecodedWordLiesInItsTableRowOnly := by
  intro p w i h
  obtain ⟨-, rfl⟩ := wf_and_encode_of_decode h
  obtain ⟨hcovers, hmem⟩ := row_covers_encode_and_mem i
  exact ⟨hcovers, fun r hr hc => opcodeTable_pattern_agree_imp_eq r hr _ hmem (OpRow.pattern_agree hc hcovers)⟩

/-! ## Worked encodings (R96) -/

/-- Settles O5, by running the decoder and the encoder. -/
theorem workedEncodings : Obligations.WorkedEncodings := by
  unfold Obligations.WorkedEncodings
  decide

end Sys2Proof
end

section
/-! PROOFS. The event words of R95: their fields as numbers, and that an event is determined by its word. -/

namespace Sys2Proof.Machine

/-! ## The words as numbers (R95) -/

/-- Below bit `n`, where the first word is 0, the second adds its number. -/
theorem toNat_or_of_lt {n a : Nat} {x y : Word} (hx : x.toNat = 2 ^ n * a) (hy : y.toNat < 2 ^ n) :
    (x ||| y).toNat = x.toNat + y.toNat := by
  rw [BitVec.toNat_or, hx, Nat.two_pow_add_eq_or_of_lt hy]

theorem toNat_eventWord_stop : (eventWord .stop).toNat = 0x10000000 := rfl

theorem toNat_eventWord_play (s : Sample) (loop : Bool) :
    (eventWord (.play s loop)).toNat = 0x20000000 + (sampleArg s).toNat * 2 ^ 8 + loop.toNat := by
  cases s <;> cases loop <;> rfl

theorem toNat_eventWord_mute (b : Bool) : (eventWord (.mute b)).toNat = 0x30000000 + b.toNat := by
  cases b <;> rfl

/-- The word of a LOG event without its argument. -/
theorem toNat_logHigh (code : LogCode) :
    (0x40000000 ||| ((logNumber code).setWidth 32 <<< 16) : Word).toNat =
      2 ^ 16 * (0x4000 + (logNumber code).toNat) := by
  cases code <;> rfl

theorem toNat_eventWord_log (code : LogCode) (arg : Info) :
    (eventWord (.log code arg)).toNat = 0x40000000 + (logNumber code).toNat * 2 ^ 16 + arg.toNat := by
  have harg : (arg.setWidth 32).toNat = arg.toNat := BitVec.toNat_setWidth_of_le (by decide)
  rw [eventWord, toNat_or_of_lt (toNat_logHigh code) (harg ▸ arg.isLt), toNat_logHigh, harg]
  omega

/-- A word is the number it is read as. -/
theorem eq_ofNat_of_toNat_eq {w : Word} {n : Nat} (h : w.toNat = n) : w = BitVec.ofNat 32 n := by
  rw [← h, BitVec.ofNat_toNat, BitVec.setWidth_eq]

theorem ite_one_zero_eq_toNat (b : Bool) : (if b then 1 else 0) = b.toNat := by cases b <;> rfl

/-- Settles O7, from the words as numbers. -/
theorem eventWordLayout : Obligations.EventWordLayout := by
  unfold Obligations.EventWordLayout
  simp only [ite_one_zero_eq_toNat]
  exact ⟨rfl, fun s loop => eq_ofNat_of_toNat_eq (toNat_eventWord_play s loop),
    fun b => eq_ofNat_of_toNat_eq (toNat_eventWord_mute b),
    fun code arg => eq_ofNat_of_toNat_eq (toNat_eventWord_log code arg)⟩

/-! ## The event of a word -/

theorem bool_toNat_injective : Function.Injective Bool.toNat := Function.LeftInverse.injective Bool.ofNat_toNat

theorem logNumber_injective {c d : LogCode} (h : (logNumber c).toNat = (logNumber d).toNat) : c = d := by
  revert h
  cases c <;> cases d <;> decide

theorem sampleArg_injective {s t : Sample} (h : (sampleArg s).toNat = (sampleArg t).toNat) : s = t := by
  revert h
  cases s <;> cases t <;> decide

/-- Bits 31 to 28 of the word number the event's kind. -/
theorem eventWord_kind (e : Event) : (eventWord e).toNat / 2 ^ 28 = e.ctorIdx + 1 := by
  cases e with
  | stop => rfl
  | play s loop => cases s <;> cases loop <;> rfl
  | mute b => cases b <;> rfl
  | log code arg =>
    rw [toNat_eventWord_log]
    change _ = 4
    omega

/-- Settles O8: the word's number gives the event's kind and then each of its fields. -/
theorem eventWordsDistinct : Obligations.EventWordsDistinct := by
  intro e f h
  have hw : (eventWord e).toNat = (eventWord f).toNat := congrArg BitVec.toNat h
  have hkind : e.ctorIdx = f.ctorIdx := by
    have he := eventWord_kind e
    have hf := eventWord_kind f
    omega
  match e, f, hkind with
  | .stop, .stop, _ => rfl
  | .play s a, .play t b, _ =>
    rw [toNat_eventWord_play, toNat_eventWord_play] at hw
    have ha := a.toNat_lt
    have hb := b.toNat_lt
    have hs : (sampleArg s).toNat = (sampleArg t).toNat := by omega
    have hab : a.toNat = b.toNat := by omega
    rw [sampleArg_injective hs, bool_toNat_injective hab]
  | .mute a, .mute b, _ =>
    rw [toNat_eventWord_mute, toNat_eventWord_mute] at hw
    have hab : a.toNat = b.toNat := by omega
    rw [bool_toNat_injective hab]
  | .log c x, .log d y, _ =>
    rw [toNat_eventWord_log, toNat_eventWord_log] at hw
    have hc : (logNumber c).toNat = (logNumber d).toNat := by omega
    have hx : x.toNat = y.toNat := by omega
    rw [logNumber_injective hc, BitVec.eq_of_toNat_eq hx]

end Sys2Proof.Machine
end

section
/-! PROOFS. The classify cycle of R111: its three moves as records, the result of `cls` and of `cls.s` at each address,
and what follows of firing (R115 to R117) and of a repeated `cls` (R122). -/

namespace Sys2Proof.Machine

/-! ## The moves of a classify cycle -/

/-- The timeout test in one record (R112). -/
theorem timeoutReset_eq (s : State) :
    timeoutReset s = { s with
      dcnt := if GapExceeds s then 0 else s.dcnt
      scnt := if GapExceeds s then 0 else s.scnt
      last := if GapExceeds s then s.side.now else s.last } := by
  unfold timeoutReset
  by_cases hgap : GapExceeds s <;> simp [timeoutExceeded_eq, hgap]

theorem Inv.timeoutReset {s : State} (h : Inv s) : Inv (timeoutReset s) := by
  rcases timeoutReset_cases s with ⟨-, e⟩ | ⟨-, e⟩ <;> rw [e]
  · exact { h with dcnt_le := Nat.zero_le _, scnt_le := Nat.zero_le _ }
  · exact h

/-- The timeout test writes neither the configuration nor the widths (R112). -/
theorem timeoutReset_kept (s : State) : (timeoutReset s).cfg = s.cfg ∧ (timeoutReset s).params = s.params := by
  rw [timeoutReset_eq]
  exact ⟨rfl, rfl⟩

/-- A count at or below the threshold goes up by exactly 1 (R27). -/
theorem toNat_countUp {s : State} {c : Count} (hc : c.toNat ≤ s.cfg.threshold.toNat)
    (hw : s.cfg.threshold.toNat < 2 ^ s.params.wTH) : (countUp s c).toNat = c.toNat + 1 := by
  have hexact := countUp_exact s c.toNat hc hw
  rw [BitVec.ofNat_toNat, BitVec.setWidth_eq] at hexact
  have h16 := s.cfg.threshold.isLt
  rw [hexact, BitVec.toNat_ofNat, Nat.mod_eq_of_lt (by omega)]

/-- Steps 3 and 4 with the firing test on numbers (R115, R117). -/
theorem fireAndPublish_eq (s : State) :
    fireAndPublish s = { s with
      dcnt := if s.cfg.threshold.toNat < s.dcnt.toNat then 0 else s.dcnt
      scnt := if s.cfg.threshold.toNat < s.scnt.toNat then 0 else s.scnt
      busy := decide (s.cfg.threshold.toNat < s.dcnt.toNat) || decide (s.cfg.threshold.toNat < s.scnt.toNat) } := by
  simp only [fireAndPublish, exceedsThreshold_eq, decide_eq_true_eq]

/-- Settles O22: firing is tested on the counts step 2 leaves, under the configuration of the step. -/
theorem firingConsumesOneCounter : Obligations.FiringConsumesOneCounter := by
  intro s v
  rw [classify, fireAndPublish_eq, countSample_timeoutReset_cfg]
  exact ⟨rfl, rfl, rfl, rfl⟩

/-- Settles O23: the invariant bounds both counts after the timeout test, and at most one of them goes up, by 1. -/
theorem atMostOneCounterFires : Obligations.AtMostOneCounterFires := by
  intro s v hinv hw
  obtain ⟨hcfg, hparams⟩ := timeoutReset_kept s
  have hwidth : (timeoutReset s).cfg.threshold.toNat < 2 ^ (timeoutReset s).params.wTH := by
    rw [hcfg, hparams]
    exact hw.threshold_lt
  have hd := hinv.timeoutReset.dcnt_le
  have hs := hinv.timeoutReset.scnt_le
  refine and_assoc.mp ⟨?_, classify_bounded v s⟩
  rcases countSample_cases v (timeoutReset s) with ⟨x, -, -, e⟩ | ⟨x, -, -, -, e⟩ | ⟨-, e⟩ <;> rw [e]
  · have hup := toNat_countUp hd hwidth
    rw [hcfg] at hs
    exact ⟨.inl ⟨rfl, hup.le, by simp only [hup]; omega⟩, fun ⟨_, hfire⟩ => by simp only at hfire; omega⟩
  · have hup := toNat_countUp hs hwidth
    rw [hcfg] at hd
    exact ⟨.inr ⟨rfl, hup.le, by simp only [hup]; omega⟩, fun ⟨hfire, _⟩ => by simp only at hfire; omega⟩
  · rw [hcfg] at hd
    exact ⟨.inl ⟨rfl, Nat.le_succ _, le_rfl⟩, fun ⟨hfire, _⟩ => by omega⟩

/-! ## The result of `cls` -/

/-- A classify cycle without a sample (R111, R112, R115, R117). -/
theorem classify_none_eq (s : State) :
    classify none s = { s with
      dcnt := if GapExceeds s ∨ s.cfg.threshold.toNat < s.dcnt.toNat then 0 else s.dcnt
      scnt := if GapExceeds s ∨ s.cfg.threshold.toNat < s.scnt.toNat then 0 else s.scnt
      last := if GapExceeds s then s.side.now else s.last
      busy := decide (¬ GapExceeds s ∧
        (s.cfg.threshold.toNat < s.dcnt.toNat ∨ s.cfg.threshold.toNat < s.scnt.toNat)) } := by
  rw [classify, countSample, timeoutReset_eq, fireAndPublish_eq]
  by_cases hgap : GapExceeds s <;> simp [hgap]

/-- Settles O17: a running block makes the cycle without a sample. -/
theorem clsWithoutSample : Obligations.ClsWithoutSample := by
  intro s hrun
  rw [exec_eq_next, execState, whenRunning_running _ hrun, classify_none_eq]

/-- Within the timeout and at counts the threshold bounds, a cycle without a sample only writes BUSY 0 (R122). -/
theorem classify_none_within {s : State} (hgap : ¬ GapExceeds s) (hd : s.dcnt.toNat ≤ s.cfg.threshold.toNat)
    (hs : s.scnt.toNat ≤ s.cfg.threshold.toNat) : classify none s = { s with busy := false } := by
  rw [classify_none_eq]
  simp [hgap, hd.not_gt, hs.not_gt]

/-- Settles O24: the cycle before leaves both counters at or below the threshold, from any state (R115). -/
theorem classifyWithoutSampleIdempotent : Obligations.ClassifyWithoutSampleIdempotent := by
  intro s0 s1 s2 v side1 side2 hrun hs1 hgap1
  have hbound : s1.dcnt.toNat ≤ s1.cfg.threshold.toNat ∧ s1.scnt.toNat ≤ s1.cfg.threshold.toNat := by
    rw [hs1, classify_cfg]
    exact classify_bounded v s0
  have hrun1 : s1.halted = false := by rw [hs1, classify_halted, hrun]
  obtain ⟨hd, hs⟩ := hbound
  have hfirst : exec .cls s1 = .next { s1 with busy := false } := by
    rw [exec_eq_next, execState, whenRunning_running _ hrun1, classify_none_within hgap1 hd hs]
  refine ⟨hfirst, fun hbusy => ?_, fun hs2 hgap2 => ?_⟩
  · rw [hfirst, ← hbusy]
  · subst hs2
    rw [exec_eq_next, execState, whenRunning_running, classify_none_within hgap2 hd hs]
    exact hrun1

/-! ## The result of `cls.s` -/

/-- The count before step 2 as the number the timeout test leaves (R112). -/
theorem toNat_ite_gapExceeds (s : State) (c : Count) :
    (if GapExceeds s then 0 else c).toNat = countBefore s c := apply_ite BitVec.toNat _ _ _

theorem countBefore_le {s : State} {c : Count} (hc : c.toNat ≤ s.cfg.threshold.toNat) :
    countBefore s c ≤ s.cfg.threshold.toNat := by
  unfold countBefore
  split <;> omega

/-- Step 2 counts up from the count the timeout test leaves, exactly (R112, R113, R27). -/
theorem countUp_afterTimeout {s : State} {c : Count} (hc : c.toNat ≤ s.cfg.threshold.toNat) (hw : InWidths s) :
    countUp s (if GapExceeds s then 0 else c) = BitVec.ofNat 17 (countBefore s c + 1) := by
  have hexact := countUp_exact s (countBefore s c) (countBefore_le hc) hw.threshold_lt
  rw [← toNat_ite_gapExceeds] at hexact ⊢
  rwa [BitVec.ofNat_toNat, BitVec.setWidth_eq] at hexact

theorem toNat_ofNat_countBefore {s : State} {c : Count} (hc : c.toNat ≤ s.cfg.threshold.toNat) :
    (BitVec.ofNat 17 (countBefore s c + 1)).toNat = countBefore s c + 1 := by
  have hle := countBefore_le hc
  have h16 := s.cfg.threshold.isLt
  rw [BitVec.toNat_ofNat, Nat.mod_eq_of_lt (by omega)]

/-- A classify cycle with a sample at the data port (R111 to R117). -/
theorem classify_dataPort_eq {s : State} (hinv : Inv s) (hw : InWidths s) (k : Strobe) :
    classify (some { kind := k, addr := s.cfg.dataPort }) s = { s with
      dcnt :=
        if s.cfg.threshold.toNat < countBefore s s.dcnt + 1 then 0 else BitVec.ofNat 17 (countBefore s s.dcnt + 1)
      scnt := if GapExceeds s then 0 else s.scnt
      last := s.side.now
      busy := decide (s.cfg.threshold.toNat < countBefore s s.dcnt + 1) } := by
  have hcount : countSample (some { kind := k, addr := s.cfg.dataPort }) (timeoutReset s) = { s with
      dcnt := BitVec.ofNat 17 (countBefore s s.dcnt + 1)
      scnt := if GapExceeds s then 0 else s.scnt
      last := s.side.now } := by
    rw [timeoutReset_eq, ← countUp_afterTimeout hinv.dcnt_le hw]
    exact if_pos rfl
  have hother := (countBefore_le hinv.scnt_le).not_gt
  rw [classify, hcount, fireAndPublish_eq]
  simp only [toNat_ofNat_countBefore hinv.dcnt_le, toNat_ite_gapExceeds, hother, if_false, decide_false, Bool.or_false]

/-- A classify cycle with a sample at the status port, where it is not the data port too (R111 to R117). -/
theorem classify_statusPort_eq {s : State} (hinv : Inv s) (hw : InWidths s) (k : Strobe)
    (hports : s.cfg.statusPort ≠ s.cfg.dataPort) :
    classify (some { kind := k, addr := s.cfg.statusPort }) s = { s with
      dcnt := if GapExceeds s then 0 else s.dcnt
      scnt :=
        if s.cfg.threshold.toNat < countBefore s s.scnt + 1 then 0 else BitVec.ofNat 17 (countBefore s s.scnt + 1)
      last := s.side.now
      busy := decide (s.cfg.threshold.toNat < countBefore s s.scnt + 1) } := by
  have hcount : countSample (some { kind := k, addr := s.cfg.statusPort }) (timeoutReset s) = { s with
      dcnt := if GapExceeds s then 0 else s.dcnt
      scnt := BitVec.ofNat 17 (countBefore s s.scnt + 1)
      last := s.side.now } := by
    rw [timeoutReset_eq, ← countUp_afterTimeout hinv.scnt_le hw]
    exact (if_neg hports).trans (if_pos rfl)
  have hother := (countBefore_le hinv.dcnt_le).not_gt
  rw [classify, hcount, fireAndPublish_eq]
  simp only [toNat_ofNat_countBefore hinv.scnt_le, toNat_ite_gapExceeds, hother, if_false, decide_false, Bool.false_or]

/-- Settles O18: a running block makes the cycle with a sample at the data port. -/
theorem clsSampleAtDataPort : Obligations.ClsSampleAtDataPort := by
  intro s k hrun hinv hw
  rw [exec_eq_next, execState, whenRunning_running _ hrun, classify_dataPort_eq hinv hw]

/-- Settles O19: a running block makes the cycle with a sample at the status port. -/
theorem clsSampleAtStatusPort : Obligations.ClsSampleAtStatusPort := by
  intro s k hrun hinv hw hports
  rw [exec_eq_next, execState, whenRunning_running _ hrun, classify_statusPort_eq hinv hw k hports]

/-- A sample at neither port counts nowhere (R113). -/
theorem classify_otherAddress {s : State} {x : BusSample} (hd : x.addr ≠ s.cfg.dataPort)
    (hs : x.addr ≠ s.cfg.statusPort) : classify (some x) s = classify none s := by
  obtain ⟨hcfg, -⟩ := timeoutReset_kept s
  simp [classify, countSample, hcfg, hd, hs]

/-- Settles O20: under the HALTED filter both commands run the same cycle. -/
theorem clsOtherSampleDiscarded : Obligations.ClsOtherSampleDiscarded := by
  intro s k a hd hs
  refine ⟨_, exec_eq_next _ _, ?_⟩
  rw [exec_eq_next, execState, execState, whenRunning, whenRunning, classify_otherAddress hd hs]

/-! ## What `cls` and `cls.s` leave alone, and do not read -/

/-- The frame of a classify cycle under the HALTED filter (R111, R186). -/
theorem whenRunning_classify_frame (v : Option BusSample) (s : State) :
    whenRunning (classify v) s = { s with
      dcnt := (whenRunning (classify v) s).dcnt
      scnt := (whenRunning (classify v) s).scnt
      last := (whenRunning (classify v) s).last
      busy := (whenRunning (classify v) s).busy } := by
  obtain ⟨_, _, _, _, hframe⟩ := classify_frame v s
  rcases whenRunning_cases (classify v) s with ⟨-, e⟩ | ⟨-, e⟩ <;> rw [e]
  rw [hframe]

/-- Settles O21: each of the two commands is a classify cycle under the HALTED filter. -/
theorem classifyFrame : Obligations.ClassifyFrame := by
  intro s t i hi h
  rw [exec_eq_next] at h
  cases h
  rcases hi with rfl | ⟨k, a, rfl⟩
  · exact whenRunning_classify_frame none s
  · exact whenRunning_classify_frame _ s

/-- A classify cycle compares the sample's address only (R114). -/
theorem classify_kind (k k' : Strobe) (a : Addr) :
    classify (some { kind := k, addr := a }) = classify (some { kind := k', addr := a }) := rfl

/-- A tick reads a sample through its classify cycle only (R180). -/
theorem tickStep_kind (k k' : Strobe) (a : Addr) :
    tickStep (some { kind := k, addr := a }) = tickStep (some { kind := k', addr := a }) := by
  funext s
  unfold tickStep
  rw [classify_kind k k']

/-- Settles O27: neither the cycle of `cls.s` nor the tick of `tick.s` depends on the kind. -/
theorem strobeKindNotRead : Obligations.StrobeKindNotRead := by
  intro s a
  simp only [exec_eq_next, execState]
  rw [classify_kind .read .write, tickStep_kind .read .write]
  exact ⟨rfl, rfl⟩

end Sys2Proof.Machine
end

section
/-! PROOFS. The threshold property of R123: what one step with a sample does to a running block, and by induction what a
run of them does. -/

namespace Sys2Proof.Machine

/-! ## One cycle with a sample that counts -/

/-- The count after one more sample: past the threshold the counter fires and is reset (R115). -/
def countAfter (c : Cfg) (n : Nat) : Nat := if c.threshold.toNat < n + 1 then 0 else n + 1

theorem toNat_countAfter {s : State} {c : Count} (hc : c.toNat ≤ s.cfg.threshold.toNat) :
    (if s.cfg.threshold.toNat < countBefore s c + 1 then 0 else BitVec.ofNat 17 (countBefore s c + 1)).toNat =
      countAfter s.cfg (countBefore s c) := by
  rw [apply_ite BitVec.toNat, toNat_ofNat_countBefore hc]
  rfl

/-- What a sample that counts into a port's counter does, at either port (R111 to R117). -/
theorem classify_counted {s : State} {m : MonitoredPort} {k : Strobe} {a : Addr} (hinv : Inv s) (hw : InWidths s)
    (hport : countsInto s.cfg a m) :
    (counterOf (classify (some { kind := k, addr := a }) s) m).toNat =
        countAfter s.cfg (countBefore s (counterOf s m)) ∧
      (classify (some { kind := k, addr := a }) s).last = s.side.now ∧
      (classify (some { kind := k, addr := a }) s).busy =
        decide (s.cfg.threshold.toNat < countBefore s (counterOf s m) + 1) := by
  cases m with
  | data =>
    cases (show a = s.cfg.dataPort from hport)
    rw [classify_dataPort_eq hinv hw]
    exact ⟨toNat_countAfter hinv.dcnt_le, rfl, rfl⟩
  | status =>
    obtain ⟨rfl, hports⟩ : a = s.cfg.statusPort ∧ a ≠ s.cfg.dataPort := hport
    rw [classify_statusPort_eq hinv hw k hports]
    exact ⟨toNat_countAfter hinv.scnt_le, rfl, rfl⟩

/-- A step with a legal word, after the first reset, completes (R188, R255). -/
theorem step_eq_execState {s : State} {x : PortInput} {rest : List PortInput} {i : Instr}
    (hp : s.pending = x :: rest) (hr : x.reset = false) (hinit : s.initialised = true)
    (hcmd : decode s.params.wA x.cmd = .instr i) :
    step s = .next (execState i (beginStep x { s with pending := rest })) := by
  rw [step_cons hp, ← exec_eq_next]
  simp [cycle, hr, hinit, hcmd]

/-- A step of a running block with a sample is a classify cycle with it, on the inputs sampled (R110, R188). -/
theorem step_presentsSample {s : State} {x : PortInput} {rest : List PortInput} {c : Cfg} {m : MonitoredPort}
    (hp : s.pending = x :: rest) (hinit : s.initialised = true) (hrun : s.halted = false)
    (hx : PresentsSample s.params c m x) :
    ∃ k a, countsInto c a m ∧
      step s = .next (classify (some { kind := k, addr := a }) (beginStep x { s with pending := rest })) := by
  obtain ⟨hr, k, a, hcmd, hport⟩ := hx
  have hrunu : (beginStep x { s with pending := rest }).halted = false := hrun
  exact ⟨k, a, hport, by rw [step_eq_execState hp hr hinit hcmd, execState, whenRunning_running _ hrunu]⟩

/-! ## A run of samples -/

/-- The input arrives at most `cfg.TIMEOUT` after time `l` (R123). -/
def ArrivesWithin (p : Params) (c : Cfg) (l : Time) (x : PortInput) : Prop :=
  ((sampleSide p x.side).now - l).toNat % 2 ^ p.wT ≤ c.timeout.toNat

/-- A running block of widths `p` and configuration `c` whose counter at port `m` is `n`, and to which samples `xs` at
that port are presented next, each in time after the one before it and, unless the counter is 0, the first in time after
LAST. -/
structure SamplesAhead (p : Params) (c : Cfg) (m : MonitoredPort) (n : Nat) (xs : List PortInput) (s : State) :
    Prop where
  params_eq : s.params = p
  cfg_eq : s.cfg = c
  initialised : s.initialised = true
  running : s.halted = false
  inv : Inv s
  inWidths : InWidths s
  count : (counterOf s m).toNat = n
  pending : ∃ rest, s.pending = xs ++ rest
  presents : ∀ x ∈ xs, PresentsSample p c m x
  gaps : GapsBetween p c xs
  inTime : n = 0 ∨ ∀ x ∈ xs.head?, ArrivesWithin p c s.last x

section

variable {p : Params} {c : Cfg} {m : MonitoredPort} {n : Nat} {x : PortInput} {xs : List PortInput} {s : State}

theorem GapsBetween.tail (h : GapsBetween p c (x :: xs)) :
    GapsBetween p c xs ∧ ∀ y ∈ xs.head?, ArrivesWithin p c (sampleSide p x.side).now y := by
  cases xs with
  | nil => exact ⟨trivial, nofun⟩
  | cons y rest => exact ⟨h.2, fun z hz => Option.some.inj hz ▸ h.1⟩

/-- A sample in time finds the counter as it is; a counter of 0 stays 0 past the timeout too (R112). -/
theorem SamplesAhead.countBefore_eq (h : SamplesAhead p c m n (x :: xs) s) (rest : List PortInput) :
    countBefore (beginStep x { s with pending := rest }) (counterOf s m) = n := by
  obtain ⟨rfl, rfl, -, -, -, -, hcount, -, -, -, hzero | hgap⟩ := h
  · simp [countBefore, hcount, hzero]
  · have hwithin : ¬ GapExceeds (beginStep x { s with pending := rest }) := not_lt.mpr (hgap x rfl)
    rw [countBefore, if_neg hwithin, hcount]

theorem SamplesAhead.count_le (h : SamplesAhead p c m n xs s) : n ≤ c.threshold.toNat := by
  rw [← h.count, ← h.cfg_eq]
  cases m with
  | data => exact h.inv.dcnt_le
  | status => exact h.inv.scnt_le

/-- One sample: the counter counts it or fires, and BUSY says which (R113, R115, R117). -/
theorem SamplesAhead.step (h : SamplesAhead p c m n (x :: xs) s) :
    ∃ t, step s = .next t ∧ SamplesAhead p c m (countAfter c n) xs t ∧ t.busy = decide (c.threshold.toNat < n + 1) := by
  obtain ⟨rest, hp⟩ := h.pending
  have hbefore := h.countBefore_eq (xs ++ rest)
  obtain ⟨hgaps, hnext⟩ := h.gaps.tail
  obtain ⟨rfl, rfl, hinit, hrun, hinv, hw, -, -, hpresents, -, -⟩ := h
  obtain ⟨k, a, hport, hstep⟩ := step_presentsSample hp hinit hrun (hpresents x List.mem_cons_self)
  have hinvu : Inv (beginStep x { s with pending := xs ++ rest }) := { hinv with }
  have hwu : InWidths (beginStep x { s with pending := xs ++ rest }) :=
    InWidths.beginStep (s := { s with pending := xs ++ rest }) { hw with } x
  obtain ⟨hcount, hlast, hbusy⟩ := classify_counted (k := k) hinvu hwu hport
  have hcounter : counterOf (beginStep x { s with pending := xs ++ rest }) m = counterOf s m := by cases m <;> rfl
  rw [hcounter, hbefore] at hcount hbusy
  exact ⟨_, hstep, ⟨classify_params _ _, classify_cfg _ _, (classify_initialised _ _).trans hinit,
    (classify_halted _ _).trans hrun, hinvu.classify _, hwu.classify _, hcount, ⟨rest, classify_pending _ _⟩,
    fun y hy => hpresents y (List.mem_cons_of_mem x hy), hgaps, .inr (hlast ▸ hnext)⟩, hbusy⟩

/-- Up to the threshold every sample counts and none fires (R123). -/
theorem SamplesAhead.run (h : SamplesAhead p c m 0 xs s) {j : Nat} (hj : j ≤ c.threshold.toNat) (hlen : j ≤ xs.length) :
    ∃ t, runSteps j s = .next t ∧ SamplesAhead p c m j (xs.drop j) t ∧ (0 < j → t.busy = false) := by
  induction j with
  | zero => exact ⟨s, rfl, h, nofun⟩
  | succ j ih =>
    obtain ⟨t, hrun, ht, -⟩ := ih (by omega) (by omega)
    rw [List.drop_eq_getElem_cons hlen] at ht
    obtain ⟨u, hstep, hu, hbusy⟩ := ht.step
    rw [countAfter, if_neg (by omega)] at hu
    exact ⟨u, (runSteps_snoc j s t hrun).trans hstep, hu, fun _ => by rw [hbusy, decide_eq_false (by omega)]⟩

end

/-- Settles O25: the run up to the threshold, then the sample that fires, then the one after it. -/
theorem thresholdRunFiresOnce : Obligations.ThresholdRunFiresOnce := by
  intro s m xs rest y z hinit hrun hinv hw hzero hp hlen hpresents hgaps
  have hstart : SamplesAhead s.params s.cfg m 0 (xs ++ [y, z]) s :=
    ⟨rfl, rfl, hinit, hrun, hinv, hw, by rw [hzero]; rfl, ⟨rest, by simp [hp]⟩, hpresents, hgaps, .inl rfl⟩
  have hfit : xs.length ≤ (xs ++ [y, z]).length := by simp
  obtain ⟨t, hrunt, ht, -⟩ := hstart.run hlen.le hfit
  rw [List.drop_left, hlen] at ht
  obtain ⟨u, hstepu, hu, hbusyu⟩ := ht.step
  rw [countAfter, if_pos (Nat.lt_succ_self _)] at hu
  obtain ⟨v, hstepv, hv, hbusyv⟩ := hu.step
  have hrunu : runSteps (xs.length + 1) s = .next u := (runSteps_snoc _ s t hrunt).trans hstepu
  have hrunv : runSteps (xs.length + 2) s = .next v := (runSteps_snoc _ s u hrunu).trans hstepv
  refine ⟨fun j hj => ?_, ⟨u, hrunu, ?_, BitVec.eq_of_toNat_eq hu.count⟩, v, hrunv, fun hpos => ?_, fun hz => ?_⟩
  · obtain ⟨w, hrunw, hcount, hbusy⟩ := hstart.run (hj.trans hlen.le) (hj.trans hfit)
    exact ⟨w, hrunw, hcount.count, hbusy⟩
  · rw [hbusyu, decide_eq_true (Nat.lt_succ_self _)]
  · have hcount := hv.count
    rw [countAfter, if_neg (by omega)] at hcount
    exact ⟨by rw [hbusyv, decide_eq_false (by omega)], BitVec.eq_of_toNat_eq hcount⟩
  · have hcount := hv.count
    rw [countAfter, if_pos (by omega)] at hcount
    exact ⟨by rw [hbusyv, decide_eq_true (by omega)], BitVec.eq_of_toNat_eq hcount⟩

end Sys2Proof.Machine
end

section
/-! PROOFS. LAST cannot be observed while both counters are 0 (R120, R121): two blocks that agree but for LAST and
`rdata` step alike, and agree on LAST too as soon as a counter is not 0. -/

namespace Sys2Proof.Machine

/-- `s` with other values of LAST and `rdata`. -/
def State.withLast (s : State) (l : Time) (r : Word) : State := { s with last := l, rdata := r }

/-- The two states agree but for `rdata`, and but for LAST while both counters are 0 (R120). -/
inductive SameButLast (s : State) : State → Prop where
  /-- LAST is at most hidden behind counters of 0. -/
  | idle (l : Time) (r : Word) (hd : s.dcnt = 0) (hs : s.scnt = 0) : SameButLast s (s.withLast l r)
  /-- LAST is the same. -/
  | same (r : Word) : SameButLast s (s.withLast s.last r)

section

variable {s t : State}

theorem SameButLast.eq_withLast (h : SameButLast s t) : ∃ l r, t = s.withLast l r := by
  cases h with
  | idle l r => exact ⟨l, r, rfl⟩
  | same r => exact ⟨_, r, rfl⟩

/-- An operation that neither reads nor writes LAST, `rdata` and the counters keeps the relation. -/
theorem SameButLast.map {f : State → State} (h : SameButLast s t)
    (hf : ∀ l r, f (s.withLast l r) = (f s).withLast l r) (hlast : (f s).last = s.last)
    (hd : (f s).dcnt = s.dcnt) (hs : (f s).scnt = s.scnt) : SameButLast (f s) (f t) := by
  cases h with
  | idle l r hd0 hs0 =>
    rw [hf]
    exact .idle l r (hd.trans hd0) (hs.trans hs0)
  | same r =>
    rw [hf, ← hlast]
    exact .same r

/-! ## The classify cycle -/

/-- Past the timeout or not, counters of 0 stay 0 (R118, R120). -/
theorem SameButLast.timeoutReset (h : SameButLast s t) :
    SameButLast (timeoutReset s) (timeoutReset t) := by
  cases h with
  | idle l r hd hs =>
    simp only [timeoutReset_eq, State.withLast, hd, hs, ite_self]
    exact .idle _ r rfl rfl
  | same r =>
    rw [timeoutReset_eq, timeoutReset_eq]
    exact .same r

/-- A sample that counts writes LAST in both (R113). -/
theorem SameButLast.countSample (h : SameButLast s t) (v : Option BusSample) :
    SameButLast (countSample v s) (countSample v t) := by
  obtain ⟨l, r, ht⟩ := h.eq_withLast
  cases v with
  | none => exact h
  | some x =>
    simp only [Machine.countSample]
    have hcfg : t.cfg = s.cfg := by rw [ht]; rfl
    rw [hcfg]
    split_ifs
    · rw [ht]; exact .same r
    · rw [ht]; exact .same r
    · exact h

/-- A counter of 0 does not fire (R115). -/
theorem SameButLast.fireAndPublish (h : SameButLast s t) :
    SameButLast (fireAndPublish s) (fireAndPublish t) := by
  cases h with
  | idle l r hd hs => exact .idle l r (by simp [fireAndPublish_eq, hd]) (by simp [fireAndPublish_eq, hs])
  | same r => exact .same r

theorem SameButLast.classify (h : SameButLast s t) (v : Option BusSample) :
    SameButLast (classify v s) (classify v t) := (h.timeoutReset.countSample v).fireAndPublish

/-! ## The other commands -/

/-- The restart rule reads neither LAST nor `rdata` (R148). -/
theorem restartOnStop_withLast (cur : LoopState) (s : State) (l : Time) (r : Word) :
    restartOnStop cur (s.withLast l r) = (restartOnStop cur s).withLast l r := by
  rw [restartOnStop_eq, restartOnStop_eq]
  rfl

/-- What follows the guard test reads neither LAST nor `rdata` (R146 to R148). -/
theorem afterGuard_withLast (cur want : LoopState) (s : State) (l : Time) (r : Word) :
    afterGuard cur want (s.withLast l r) = (afterGuard cur want s).withLast l r := by
  have hdue : transitionDue cur want (s.withLast l r) = transitionDue cur want s := rfl
  have hok : libOk (s.withLast l r).side (loopSample want) = libOk s.side (loopSample want) := rfl
  unfold afterGuard
  rw [hdue, hok]
  split_ifs
  · rfl
  · exact restartOnStop_withLast cur (s.emit (unavailable (loopSample want))) l r
  · exact restartOnStop_withLast cur s l r

/-- A state-machine step reads neither LAST nor `rdata` (R149). -/
theorem asmStep_withLast (b : Bool) (s : State) (l : Time) (r : Word) :
    asmStep b (s.withLast l r) = (asmStep b s).withLast l r := by
  have hloop : ∀ cur, s.state = loopPlayback cur → asmStep b (s.withLast l r) = (asmStep b s).withLast l r := by
    intro cur hcur
    have hguard : guardTest (s.withLast l r) = (guardTest s).withLast l r := by
      rw [guardTest_eq, guardTest_eq]
      rfl
    rw [asmStep_looping b s cur hcur, asmStep_looping b (s.withLast l r) cur hcur, hguard, afterGuard_withLast]
  cases hstate : s.state with
  | idle => exact hloop .idle hstate
  | access => exact hloop .access hstate
  | spinup =>
    have hstate' : (s.withLast l r).state = .spinup := hstate
    have hspin : (s.withLast l r).spin = s.spin := rfl
    have hplaying : (s.withLast l r).side.sinkPlaying = s.side.sinkPlaying := rfl
    simp only [asmStep, hstate, hstate', hspin, hplaying]
    split_ifs
    · rfl
    · rw [spinUpDone_eq, spinUpDone_eq]
      rfl
    · rw [spinUpStart_eq, spinUpStart_eq]
      rfl

theorem SameButLast.asmStep (h : SameButLast s t) (b : Bool) :
    SameButLast (asmStep b s) (asmStep b t) :=
  h.map (asmStep_withLast b s) (asmStep_last b s) (asmStep_dcnt b s) (asmStep_scnt b s)

theorem SameButLast.tickStep (h : SameButLast s t) (v : Option BusSample) :
    SameButLast (tickStep v s) (tickStep v t) := by
  obtain ⟨l, r, ht⟩ := h.eq_withLast
  have hstate : t.state = s.state := by rw [ht]; rfl
  by_cases hspinup : s.state = .spinup
  · rw [tickStep_spinup v hspinup, tickStep_spinup v (hstate.trans hspinup)]
    exact h.asmStep false
  · have hclassify := h.classify v
    obtain ⟨l', r', hc⟩ := hclassify.eq_withLast
    have hbusy : (Machine.classify v t).busy = (Machine.classify v s).busy := by rw [hc]; rfl
    rw [tickStep_looping v hspinup, tickStep_looping v (hstate ▸ hspinup), hbusy]
    exact hclassify.asmStep _

/-- The HALTED filter lets the same through in both (R186). -/
theorem SameButLast.whenRunning {f : State → State} (h : SameButLast s t)
    (hf : SameButLast (f s) (f t)) : SameButLast (whenRunning f s) (whenRunning f t) := by
  obtain ⟨l, r, ht⟩ := h.eq_withLast
  have hhalted : t.halted = s.halted := by rw [ht]; rfl
  rcases whenRunning_cases f s with ⟨hrun, e⟩ | ⟨hrun, e⟩ <;> rw [e]
  · rw [whenRunning_halted f (hhalted.trans hrun)]
    exact h
  · rw [whenRunning_running f (hhalted.trans hrun)]
    exact hf

/-- Only `rdata` can differ by what RDS reads (R187). -/
theorem SameButLast.setRdata (h : SameButLast s t) (r r' : Word) :
    SameButLast { s with rdata := r } { t with rdata := r' } := by
  cases h with
  | idle l _ hd hs => exact .idle l r' hd hs
  | same _ => exact .same r'

/-- Every command keeps the relation. -/
theorem SameButLast.execState (h : SameButLast s t) (i : Instr) :
    SameButLast (execState i s) (execState i t) := by
  cases i with
  | nop => exact h
  | cls => exact h.whenRunning (h.classify none)
  | clsS k a => exact h.whenRunning (h.classify _)
  | asm b => exact h.whenRunning (h.asmStep b)
  | tick => exact h.whenRunning (h.tickStep none)
  | tickS k a => exact h.whenRunning (h.tickStep _)
  | shdn => exact h.whenRunning (h.map (fun _ _ => rfl) rfl rfl rfl)
  | flt info => exact h.whenRunning (h.map (fun _ _ => rfl) rfl rfl rfl)
  | rds idx => exact h.setRdata _ _

/-! ## Steps and runs -/

theorem SameButLast.refl (s : State) : SameButLast s s := .same s.rdata

/-- A step starts alike in both, with `rdata` 0 (R188). -/
theorem SameButLast.beginStep (h : SameButLast s t) (x : PortInput) :
    SameButLast (beginStep x s) (beginStep x t) := by
  cases h with
  | idle l _ hd hs => exact .idle l 0 hd hs
  | same _ => exact .same 0

theorem SameButLast.illegalWord (h : SameButLast s t) (cmd : Word) :
    SameButLast (illegalWord cmd s) (illegalWord cmd t) := by
  refine h.whenRunning ?_
  cases h with
  | idle l r hd hs => exact .idle l r hd hs
  | same r => exact .same r

/-- With the same input the two blocks are refused alike, or answer states that agree (R188, R215, R242). -/
theorem SameButLast.cycle (h : SameButLast s t) (x : PortInput) :
    (∃ r, cycle x s = .refused r ∧ cycle x t = .refused r) ∨
    ∃ s' t', cycle x s = .next s' ∧ cycle x t = .next t' ∧ SameButLast s' t' := by
  obtain ⟨l, r, ht⟩ := h.eq_withLast
  have hinit : t.initialised = s.initialised := by rw [ht]; rfl
  have hparams : t.params = s.params := by rw [ht]; rfl
  have hreset : resetBlock x t = resetBlock x s := by rw [ht]; rfl
  unfold Machine.cycle
  rw [hinit, hparams, hreset]
  split_ifs
  · exact .inr ⟨_, _, rfl, rfl, .refl _⟩
  · cases decode s.params.wA x.cmd with
    | illegal _ => exact .inr ⟨_, _, rfl, rfl, (h.beginStep x).illegalWord x.cmd⟩
    | instr i => exact .inr ⟨_, _, exec_eq_next _ _, exec_eq_next _ _, (h.beginStep x).execState i⟩
  · exact .inl ⟨_, rfl, rfl⟩

/-- The two blocks take the same input, since LAST has no part in what is presented (R67). -/
theorem SameButLast.step (h : SameButLast s t) :
    (∃ r, step s = .refused r ∧ step t = .refused r) ∨
    ∃ s' t', step s = .next s' ∧ step t = .next t' ∧ SameButLast s' t' := by
  obtain ⟨l, r, ht⟩ := h.eq_withLast
  have hpending : t.pending = s.pending := by rw [ht]; rfl
  cases hp : s.pending with
  | nil => exact .inl ⟨_, step_nil hp, step_nil (hpending.trans hp)⟩
  | cons x rest =>
    have htaken : SameButLast { s with pending := rest } { t with pending := rest } :=
      h.map (f := fun s => { s with pending := rest }) (fun _ _ => rfl) rfl rfl rfl
    rw [step_cons hp, step_cons (hpending.trans hp)]
    exact htaken.cycle x

/-- The relation holds along every run, and the events are the same (R68, R120). -/
theorem SameButLast.run (h : SameButLast s t) (k : Nat) :
    eventTrace k t = eventTrace k s ∧
    ∀ u, runSteps k s = .next u → ∃ v, runSteps k t = .next v ∧ SameButLast u v := by
  induction k generalizing s t with
  | zero => exact ⟨rfl, fun u hu => ⟨t, rfl, by cases hu; exact h⟩⟩
  | succ k ih =>
    rcases h.step with ⟨r, hs, ht⟩ | ⟨s', t', hs, ht, h'⟩
    · exact ⟨by simp [eventTrace, hs, ht], fun u hu => by simp [runSteps_succ, hs] at hu⟩
    · obtain ⟨htrace, hrun⟩ := ih h'
      obtain ⟨l, r, ht'⟩ := h'.eq_withLast
      have hevents : t'.events = s'.events := by rw [ht']; rfl
      rw [eventTrace_succ hs, eventTrace_succ ht, hevents, htrace, runSteps_succ, runSteps_succ, hs, ht]
      exact ⟨rfl, hrun⟩

end

/-- Settles O26: with both counters 0, another value of LAST makes a pair of states that agree but for LAST. -/
theorem lastUnobservableAtZeroCounters : Obligations.LastUnobservableAtZeroCounters := by
  intro s l k hd hs
  have hstart : SameButLast s { s with last := l } := .idle l s.rdata hd hs
  obtain ⟨htrace, hrun⟩ := hstart.run k
  refine ⟨htrace, fun t ht => ?_⟩
  obtain ⟨v, hv, hagree⟩ := hrun t ht
  obtain ⟨l', r, rfl⟩ := hagree.eq_withLast
  exact ⟨l', r, hv⟩

end Sys2Proof.Machine
end

section
/-! PROOFS. The state machine of R149: the result of `asm` in each of its cases, its frame, and the hysteresis of R152,
which is an induction over the steps inside `cfg.MIN_DELAY`. -/

namespace Sys2Proof.Machine

/-! ## One state-machine step, case by case -/

/-- On a running block ASM is a state-machine step (R140). -/
theorem exec_asm_running {s : State} (hrun : s.halted = false) (b : Bool) :
    exec (.asm b) s = .next (asmStep b s) :=
  congrArg Host.Outcome.next (whenRunning_running _ hrun)

theorem asmStep_spinUpStart {s : State} (b : Bool) (hs : s.state = .spinup) (hp : s.spin = false) :
    asmStep b s = spinUpStart s := by
  simp [asmStep, hs, hp]

theorem asmStep_spinUpWait {s : State} (b : Bool) (hs : s.state = .spinup) (hp : s.spin = true)
    (hq : s.side.sinkPlaying = true) : asmStep b s = s := by
  simp [asmStep, hs, hp, hq]

theorem asmStep_spinUpDone {s : State} (b : Bool) (hs : s.state = .spinup) (hp : s.spin = true)
    (hq : s.side.sinkPlaying = false) : asmStep b s = spinUpDone s := by
  simp [asmStep, hs, hp, hq]

/-- The guard test keeps an armed hold exactly while less than `cfg.MIN_DELAY` has passed (R144). -/
theorem guardTest_eq_timeSince (s : State) :
    guardTest s = { s with hold := s.hold && decide (timeSince s s.tchg < s.cfg.minDelay.toNat) } := by
  rw [guardTest_eq, delayElapsed_eq, ← decide_not]
  simp only [not_le]

section

variable {s : State} {cur : LoopState} {b : Bool}

/-- A due transition whose sample is available (R146). -/
theorem asmStep_transition (hs : s.state = loopPlayback cur) (hne : wanted b ≠ cur) (hover : HoldOver s)
    (hok : libOk s.side (loopSample (wanted b)) = true) :
    asmStep b s = { s with
      state := loopPlayback (wanted b)
      tchg := s.side.now
      hold := true
      events := s.events ++ [.stop, .play (loopSample (wanted b)) true] } := by
  have hdue := (transitionDue_guardTest cur (wanted b) s).mpr ⟨hne, hover⟩
  have hside : (guardTest s).side = s.side := by rw [guardTest_eq]
  rw [asmStep_looping b s cur hs, afterGuard, if_pos hdue, hside, if_pos hok, takeTransition_eq, guardTest_eq]

/-- A step in a looping state without a transition: the guard test, the log of a failed transition, and the restart rule
(R144, R147, R148). -/
theorem asmStep_noTransition (hs : s.state = loopPlayback cur)
    (hnone : ¬ (wanted b ≠ cur ∧ HoldOver s ∧ libOk s.side (loopSample (wanted b)) = true)) :
    asmStep b s = { s with
      hold := s.hold && decide (timeSince s s.tchg < s.cfg.minDelay.toNat)
      events := s.events ++
        (if wanted b ≠ cur ∧ HoldOver s then [unavailable (loopSample (wanted b))] else []) ++
        (if s.side.sinkPlaying then [] else
          [if libOk s.side (loopSample cur) then .play (loopSample cur) true else unavailable (loopSample cur)]) } := by
  have hside : (guardTest s).side = s.side := by rw [guardTest_eq]
  rw [asmStep_looping b s cur hs, afterGuard, hside]
  by_cases hdue : wanted b ≠ cur ∧ HoldOver s
  · have hbad : ¬ libOk s.side (loopSample (wanted b)) = true := fun hok => hnone ⟨hdue.1, hdue.2, hok⟩
    rw [if_pos ((transitionDue_guardTest _ _ _).mpr hdue), if_neg hbad, if_pos hdue, restartOnStop_eq,
      guardTest_eq_timeSince]
    rfl
  · rw [if_neg (mt (transitionDue_guardTest _ _ _).mp hdue), if_neg hdue, restartOnStop_eq, guardTest_eq_timeSince,
      List.append_nil]

end

/-! ## The hold (R152) -/

/-- What a hold keeps: STATE, HOLD and TCHG, and the configuration and widths the guard test reads (R144). -/
structure SameHold (s t : State) : Prop where
  state_eq : t.state = s.state
  hold_eq : t.hold = s.hold
  tchg_eq : t.tchg = s.tchg
  cfg_eq : t.cfg = s.cfg
  params_eq : t.params = s.params

theorem SameHold.refl (s : State) : SameHold s s := ⟨rfl, rfl, rfl, rfl, rfl⟩

theorem SameHold.trans {s t u : State} (h : SameHold s t) (g : SameHold t u) : SameHold s u where
  state_eq := g.state_eq.trans h.state_eq
  hold_eq := g.hold_eq.trans h.hold_eq
  tchg_eq := g.tchg_eq.trans h.tchg_eq
  cfg_eq := g.cfg_eq.trans h.cfg_eq
  params_eq := g.params_eq.trans h.params_eq

theorem exists_loopPlayback_eq {st : PlaybackState} (h : st ≠ .spinup) : ∃ cur, st = loopPlayback cur := by
  cases st with
  | spinup => exact absurd rfl h
  | idle => exact ⟨.idle, rfl⟩
  | access => exact ⟨.access, rfl⟩

/-- While the hold is not over, no state-machine step takes a transition or clears the hold (R144, R145). -/
theorem asmStep_sameHold {s : State} (b : Bool) (hstate : s.state ≠ .spinup) (hheld : ¬ HoldOver s) :
    SameHold s (asmStep b s) := by
  obtain ⟨cur, hcur⟩ := exists_loopPlayback_eq hstate
  have hwithin : timeSince s s.tchg < s.cfg.minDelay.toNat := not_le.mp fun h => hheld (.inr h)
  rw [asmStep_noTransition hcur fun h => hheld h.2.1, decide_eq_true hwithin, Bool.and_true]
  exact ⟨rfl, rfl, rfl, rfl, rfl⟩

theorem classify_sameHold (v : Option BusSample) (s : State) : SameHold s (classify v s) := by
  constructor <;> simp

/-- A classify cycle leaves everything the hold is made of (R111). -/
theorem holdOver_classify (v : Option BusSample) (s : State) : HoldOver (classify v s) ↔ HoldOver s := by
  simp [HoldOver, timeSince]

/-- While the hold is not over, no effect of a step without reset changes it (R152). -/
theorem CommandEffect.sameHold {cmd : Word} {u t : State} (he : CommandEffect cmd u t) (hstate : u.state ≠ .spinup)
    (hheld : ¬ HoldOver u) : SameHold u t := by
  cases he with
  | nothing | illegal | read | shutDown | faulted => exact ⟨rfl, rfl, rfl, rfl, rfl⟩
  | classified i v => exact classify_sameHold v u
  | driven i b => exact asmStep_sameHold b hstate hheld
  | ticked i v b =>
    refine (classify_sameHold v u).trans (asmStep_sameHold b ?_ (mt (holdOver_classify v u).mp hheld))
    rwa [classify_state]

/-- Input `x` arrives less than `cfg.MIN_DELAY` after TCHG, by the time the block samples (R144; log 4). -/
def ArrivesHeld (s : State) (x : PortInput) : Prop :=
  ((sampleSide s.params x.side).now - s.tchg).toNat % 2 ^ s.params.wT < s.cfg.minDelay.toNat

theorem SameHold.arrivesHeld {s t : State} (h : SameHold s t) (x : PortInput) :
    ArrivesHeld t x ↔ ArrivesHeld s x := by
  unfold ArrivesHeld
  rw [h.params_eq, h.tchg_eq, h.cfg_eq]

/-- Sampling the side inputs cuts the time to its port and leaves the library's answers (R37; log 4). -/
theorem libOk_sampleSide (p : Params) (x : SideInputs) (smp : Sample) : libOk (sampleSide p x) smp = libOk x smp := by
  cases smp <;> rfl

/-- An armed hold is over in a step exactly if the step's input does not arrive within `cfg.MIN_DELAY` (R144). -/
theorem holdOver_beginStep {s : State} (x : PortInput) (hhold : s.hold = true) :
    HoldOver (beginStep x s) ↔ ¬ ArrivesHeld s x := by
  simp [HoldOver, ArrivesHeld, timeSince, hhold]

/-- A run inside `cfg.MIN_DELAY` keeps the hold, whatever its commands (R152). -/
theorem runSteps_sameHold {k : Nat} {s t : State} (hhold : s.hold = true) (hstate : s.state ≠ .spinup)
    (hreset : NoResetIn k s) (hheld : ∀ x ∈ s.pending.take k, ArrivesHeld s x) (h : runSteps k s = .next t) :
    SameHold s t := by
  induction k generalizing s with
  | zero =>
    cases h
    exact .refl _
  | succ k ih =>
    obtain ⟨u, hstep, hrest⟩ := runSteps_succ_next h
    obtain ⟨x, rest, hp, -⟩ := step_next_input hstep
    obtain ⟨hpu, -⟩ := step_next_kept hp hstep
    rw [NoResetIn, hp, List.take_succ_cons, List.forall_mem_cons] at hreset
    rw [hp, List.take_succ_cons, List.forall_mem_cons] at hheld
    have hnow : ¬ HoldOver (beginStep x { s with pending := rest }) :=
      mt (holdOver_beginStep (s := { s with pending := rest }) x hhold).mp (not_not.mpr hheld.1)
    have hkept := (step_effect hp hreset.1 hstep).sameHold hstate hnow
    have hsu : SameHold s u := { hkept with }
    refine hsu.trans (ih (hsu.hold_eq.trans hhold) (hsu.state_eq ▸ hstate) ?_ ?_ hrest)
    · rw [NoResetIn, hpu]
      exact hreset.2
    · rw [hpu]
      exact fun y hy => (hsu.arrivesHeld y).mpr (hheld.2 y hy)

/-- Settles O36: the hold is kept along the run, and is over for the `asm` that follows it. -/
theorem holdBlocksTransitions : Obligations.HoldBlocksTransitions := by
  intro k s t hhold hstate hreset hheld hrun
  have hst : SameHold s t := runSteps_sameHold hhold hstate hreset hheld hrun
  have hholdt : t.hold = true := hst.hold_eq.trans hhold
  refine ⟨⟨hst.state_eq, hholdt, hst.tchg_eq⟩, fun y rest b hp hr hinit hrunning hcmd hne hlate hok => ?_⟩
  obtain ⟨cur, hcur⟩ := exists_loopPlayback_eq (hst.state_eq ▸ hstate : t.state ≠ .spinup)
  have hwant : wanted b ≠ cur := fun hw => hne (hcur.trans (congrArg loopPlayback hw.symm))
  have hover : HoldOver (beginStep y { t with pending := rest }) :=
    (holdOver_beginStep (s := { t with pending := rest }) y hholdt).mpr
      (mt (hst.arrivesHeld y).mp (not_lt.mpr hlate))
  have hlib : libOk (sampleSide t.params y.side) (loopSample (wanted b)) = true := (libOk_sampleSide _ _ _).trans hok
  refine ⟨_, step_eq_execState hp hr hinit hcmd, ?_⟩
  rw [execState, whenRunning_running _ (s := beginStep y { t with pending := rest }) hrunning,
    asmStep_transition (s := beginStep y { t with pending := rest }) hcur hwant hover hlib, ← hst.params_eq]
  exact ⟨rfl, rfl, rfl⟩

/-! ## SPINUP (R141 to R143) -/

/-- CFG_WARN as the number a LOG event carries (R22, R141). -/
theorem setWidth_cfgWarn (c : Cfg) :
    (cfgWarn c).setWidth 16 =
      BitVec.ofNat 16 ((if c.threshold = 0 then 1 else 0) + (if c.timeout = 0 then 2 else 0)) := by
  unfold cfgWarn
  by_cases ht : c.threshold = 0 <;> by_cases ho : c.timeout = 0 <;> simp only [ht, ho] <;> rfl

/-- Settles O29, with CFG_WARN as a condition and as a number. It is in `Asm` because `spinUpStart` is the model's own
operation. -/
theorem Asm.spinUpStart : Obligations.SpinUpStart := by
  intro s b hrun hs hp
  rw [exec_asm_running hrun, asmStep_spinUpStart b hs hp, spinUpStart_eq, setWidth_cfgWarn]
  simp only [cfgWarn_ne_zero]
  rfl

/-- Settles O31; the invariant gives the reset values. -/
theorem spinUpToIdle : Obligations.SpinUpToIdle := by
  intro s b hrun hs hp hq
  refine ⟨?_, fun hinv => ⟨hinv.spinup_hold hs, hinv.spinup_tchg hs⟩⟩
  rw [exec_asm_running hrun, asmStep_spinUpDone b hs hp hq, spinUpDone_eq]
  rfl

/-- Settles O30: a running block takes the wait case, and on a halted one there is no effect (R186). -/
theorem spinUpWait : Obligations.SpinUpWait := by
  intro s b hs hp hq
  rcases whenRunning_cases (asmStep b) s with ⟨-, e⟩ | ⟨-, e⟩
  · exact congrArg Host.Outcome.next e
  · exact congrArg Host.Outcome.next (e.trans (asmStep_spinUpWait b hs hp hq))

/-! ## IDLE and ACCESS (R144 to R148) -/

/-- Settles O32, the one transition in each direction. -/
theorem transitionTaken : Obligations.TransitionTaken := by
  intro s hrun hover
  refine ⟨fun hs hok => ?_, fun hs hok => ?_⟩ <;> rw [exec_asm_running hrun]
  · exact congrArg _ (asmStep_transition (cur := .idle) (b := true) hs nofun hover hok)
  · exact congrArg _ (asmStep_transition (cur := .access) (b := false) hs nofun hover hok)

/-- Settles O34: `unavailable` is the log event the statement writes out. -/
theorem restartWithoutTransition : Obligations.RestartWithoutTransition := by
  intro s cur b hrun hs hnone
  rw [exec_asm_running hrun, asmStep_noTransition hs hnone]
  rfl

/-- The guard test clears a hold that is over (R144). -/
theorem HoldOver.guard_eq_false {s : State} (h : HoldOver s) :
    (s.hold && decide (timeSince s s.tchg < s.cfg.minDelay.toNat)) = false := by
  rcases h with h | h
  · rw [h, Bool.false_and]
  · rw [decide_eq_false (not_lt.mpr h), Bool.and_false]

/-- A due transition whose sample is unavailable: the hold is over, the log, and the restart rule (R147, R148). -/
theorem asmStep_unavailable {s : State} {cur : LoopState} {b : Bool} (hs : s.state = loopPlayback cur)
    (hne : wanted b ≠ cur) (hover : HoldOver s) (hok : libOk s.side (loopSample (wanted b)) = false) :
    asmStep b s = { s with
      hold := false
      events := s.events ++ [unavailable (loopSample (wanted b))] ++
        (if s.side.sinkPlaying then [] else
          [if libOk s.side (loopSample cur) then .play (loopSample cur) true else unavailable (loopSample cur)]) } := by
  rw [asmStep_noTransition hs (fun h => absurd (hok.symm.trans h.2.2) nofun), hover.guard_eq_false,
    if_pos ⟨hne, hover⟩]

/-- Settles O33, the one transition in each direction. -/
theorem transitionUnavailable : Obligations.TransitionUnavailable := by
  intro s hrun hover
  refine ⟨fun hs hok => ?_, fun hs hok => ?_⟩ <;> rw [exec_asm_running hrun]
  · exact congrArg _ (asmStep_unavailable (cur := .idle) (b := true) hs nofun hover hok)
  · exact congrArg _ (asmStep_unavailable (cur := .access) (b := false) hs nofun hover hok)

/-! ## The frame (R149) -/

/-- Every effect of a state-machine step is within the frame and only appends events (R149). -/
theorem AsmEffect.frame {s t : State} (he : AsmEffect s t) :
    t = { s with
      state := t.state, tchg := t.tchg, hold := t.hold, spin := t.spin, muted := t.muted, events := t.events } ∧
    ∃ es, t.events = s.events ++ es := by
  cases he <;> exact ⟨rfl, _, rfl⟩

/-- Settles O35: a halted block keeps its state, and a running one takes a state-machine step. -/
theorem asmFrame : Obligations.AsmFrame := by
  intro s t b h
  cases h
  rcases whenRunning_cases (asmStep b) s with ⟨-, e⟩ | ⟨-, e⟩ <;> rw [e]
  · exact ⟨rfl, [], (List.append_nil _).symm⟩
  · exact (asmStep_effect b s).frame

end Sys2Proof.Machine
end

section
/-! PROOFS. The step of a legal and of an illegal word (R185, R188), and the halted block: SHDN and FLT enter it (R183,
R184), only reset leaves it (R186), and on it the sink stays silent and the amplifier muted (R189, R190). -/

namespace Sys2Proof.Machine

/-! ## Command words as numbers (R81) -/

/-- A word with a free low field is the sum of the fixed high part, shifted, and the field (R81). -/
theorem toNat_append_eq_add {m n : Nat} (hi : BitVec m) (lo : BitVec n) :
    (hi ++ lo).toNat = hi.toNat * 2 ^ n + lo.toNat := by
  rw [BitVec.toNat_append, ← Nat.shiftLeft_add_eq_or_of_lt lo.isLt, Nat.shiftLeft_eq]

/-! ## The step -/

section

variable {s t : State} {x : PortInput} {rest : List PortInput}

/-- After the first reset a step with an input presented completes (R210, R242). -/
theorem exists_step_next (hp : s.pending = x :: rest) (hinit : s.initialised = true) : ∃ t, step s = .next t := by
  rw [step_cons hp, cycle, if_pos hinit]
  split_ifs
  · exact ⟨_, rfl⟩
  · cases decode s.params.wA x.cmd with
    | illegal e => exact ⟨_, rfl⟩
    | instr i => exact ⟨_, exec_eq_next i _⟩

/-- The first step of a run without reset is one without reset, and so are the steps after it. -/
theorem NoResetIn.step {k : Nat} (h : NoResetIn (k + 1) s) (hp : s.pending = x :: rest)
    (hstep : step s = .next t) : x.reset = false ∧ NoResetIn k t := by
  obtain ⟨hpending, -⟩ := step_next_kept hp hstep
  rw [NoResetIn, hp, List.take_succ_cons, List.forall_mem_cons, ← hpending] at h
  exact h

/-- Settles O13: the step starts with the inputs sampled, and the rest is the decoded command. -/
theorem stepRunsTheDecodedCommand : Obligations.StepRunsTheDecodedCommand := by
  intro s x rest i hinit hp hr hcmd
  rw [step_eq_execState hp hr hinit hcmd, exec_eq_next]
  rfl

/-- Settles O40: word 0 is the encoding of NOP. -/
theorem nopChangesNothing : Obligations.NopChangesNothing := by
  refine ⟨fun _ => rfl, fun s x rest hinit hp hr hcmd => ?_⟩
  have hnop : decode s.params.wA x.cmd = .instr .nop := hcmd ▸ decode_encode (i := .nop) rfl
  exact ⟨_, step_eq_execState hp hr hinit hnop, rfl⟩

/-- Settles O15: an illegal word takes the effect of R185 on a running block. -/
theorem illegalWordIsLogged : Obligations.IllegalWordIsLogged := by
  intro s x rest hinit hp hr hcmd hrun
  obtain ⟨t, ht⟩ := exists_step_next hp hinit
  refine ⟨t, ht, ?_⟩
  rw [step_illegal_eq hp hr ((legal_eq_false_iff _ _).mp hcmd) ht, illegalWord,
    whenRunning_running _ (s := beginStep x { s with pending := rest }) hrun]
  rfl

/-! ## The halted block (R186) -/

/-- Without reset a halted block writes `rdata` at most (R186). -/
theorem CommandEffect.halted_frame {cmd : Word} {u : State} (he : CommandEffect cmd u t) (hh : u.halted = true) :
    ∃ r, t = { u with rdata := r } := by
  cases he with
  | nothing | read => exact ⟨_, rfl⟩
  | illegal _ hrun | classified _ _ _ _ _ hrun | driven _ _ _ _ hrun | ticked _ _ _ _ _ _ hrun | shutDown hrun
  | faulted _ _ hrun => exact absurd (hh.symm.trans hrun) nofun

/-- A step without reset leaves a halted block halted, and emits nothing (R186). -/
theorem step_halted (hp : s.pending = x :: rest) (hr : x.reset = false) (hh : s.halted = true)
    (h : step s = .next t) : t.halted = true ∧ t.events = [] := by
  obtain ⟨r, rfl⟩ := (step_effect hp hr h).halted_frame hh
  exact ⟨hh, rfl⟩

/-- Until reset a halted block emits nothing (R186, R189). -/
theorem eventTrace_halted {k : Nat} (hh : s.halted = true) (hr : NoResetIn k s) : eventTrace k s = [] := by
  induction k generalizing s with
  | zero => rfl
  | succ k ih =>
    cases h : step s with
    | fault r | refused r => simp [eventTrace, h]
    | next t =>
      obtain ⟨x, rest, hp, -⟩ := step_next_input h
      obtain ⟨hx, hrest⟩ := hr.step hp h
      obtain ⟨hht, hev⟩ := step_halted hp hx hh h
      rw [eventTrace_succ h, hev, ih hht hrest, List.append_nil]

/-- The decoder reads RDS from the legal words whose OP is 6 (R88, R90). -/
theorem decode_eq_rds_iff (p : Params) (w : Word) (idx : Index) :
    decode p.wA w = .instr (.rds idx) ↔ legal p.wA w = true ∧ opField w = Op.rds.code ∧ idxField w = idx := by
  constructor
  · intro h
    obtain ⟨-, rfl⟩ := wf_and_encode_of_decode h
    exact ⟨(decodesExactlyTheLegalWords p _).mp ⟨_, h⟩, opField_encode_rds idx, idxField_encode_rds idx⟩
  · rintro ⟨hlegal, hop, rfl⟩
    obtain ⟨i, hi⟩ := (decodesExactlyTheLegalWords p w).mpr hlegal
    have hrds := hi
    rw [decode, hop, opOf_code] at hrds
    obtain ⟨-, rfl⟩ := reservedBits_eq_instr hrds
    exact hi

/-- Settles O16: the step is within the frame of a halted block, and `rdata` is what R39 says of it. -/
theorem haltedBlockOnlyReads : Obligations.HaltedBlockOnlyReads := by
  intro s x rest hinit hp hh
  obtain ⟨t, ht⟩ := exists_step_next hp hinit
  refine ⟨fun hr => ⟨t, ht, ?_⟩, fun hr => ⟨t, ht, ?_⟩⟩
  · obtain ⟨-, hread, hzero⟩ := rdataAndLevelOutputs s t x rest hp ht
    have hrdata : t.rdata = if legal s.params.wA x.cmd = true ∧ x.cmd.extractLsb 31 28 = 6
        then readRegister s (x.cmd.extractLsb 7 0) else 0 := by
      split_ifs with hrds
      · exact hread _ hr ((decode_eq_rds_iff s.params x.cmd _).mpr ⟨hrds.1, hrds.2, rfl⟩)
      · refine hzero (.inr fun idx hcmd => hrds ?_)
        obtain ⟨hlegal, hop, -⟩ := (decode_eq_rds_iff s.params x.cmd idx).mp hcmd
        exact ⟨hlegal, hop⟩
    rw [← hrdata]
    obtain ⟨r, rfl⟩ := (step_effect hp hr ht).halted_frame hh
    rfl
  · rw [step_reset_eq hp hr ht]
    rfl

end

/-! ## Shutdown and fault (R183, R184, R189) -/

/-- Settles O45: the shutdown halts the block, and a halted block is silent until reset. -/
theorem silentAfterShutdown : Obligations.SilentAfterShutdown := by
  intro s x rest hinit hrun hp hr hcmd
  have hstep : step s = .next (enterHalt (beginStep x { s with pending := rest })) := by
    rw [step_eq_execState hp hr hinit hcmd, execState,
      whenRunning_running _ (s := beginStep x { s with pending := rest }) hrun]
  refine ⟨_, hstep, rfl, fun k hreset e he => ?_⟩
  rw [eventTrace_halted rfl hreset] at he
  exact absurd he List.not_mem_nil

/-- On a halted block every command but RDS has no effect (R186). -/
theorem exec_halted {t : State} (hh : t.halted = true) (i : Instr) (hn : ∀ idx, i ≠ .rds idx) :
    exec i t = .next t := by
  rw [exec_eq_next, execState_halted i t hh hn]

/-- Settles O41: SHDN on a running block is the entry to the halted state. -/
theorem shdnStopsMutesHalts : Obligations.ShdnStopsMutesHalts := by
  refine ⟨rfl, ?_⟩
  rintro s _ hrun rfl
  refine ⟨?_, exec_halted rfl⟩
  rw [exec_eq_next, execState, whenRunning_running _ hrun]
  simp [enterHalt, State.emit, State.commandMute]

/-- Settles O42: FLT on a running block is the entry to the halted state and then the report. -/
theorem fltStopsMutesHaltsReports : Obligations.FltStopsMutesHaltsReports := by
  refine ⟨fun info => toNat_append_eq_add (0b0101#4 ++ 0#12) info, ?_⟩
  rintro s _ info hrun rfl
  refine ⟨?_, exec_halted rfl⟩
  rw [exec_eq_next, execState, whenRunning_running _ hrun]
  simp [faultShutdown, enterHalt, State.emit, State.commandMute]

/-! ## The last MUTE of a run (R32, R190) -/

/-- A step that halts the block commands MUTE(1) last (R183, R184). -/
theorem CommandEffect.lastMute_of_halts {cmd : Word} {u t : State} (he : CommandEffect cmd u t)
    (hrun : u.halted = false) (hh : t.halted = true) : lastMute t.events = some true := by
  cases he with
  | nothing | illegal | read | classified | driven | ticked => simp [hrun] at hh
  | shutDown => simp [lastMute_append, lastMute]
  | faulted info => simp [faultShutdown, lastMute_append, lastMute]

section

variable {k : Nat} {s t : State}

/-- Along a run without reset MUTED is the last value commanded, or else its value before (R32). -/
theorem runSteps_muted (hr : NoResetIn k s) (h : runSteps k s = .next t) :
    t.muted = (lastMute (eventTrace k s)).getD s.muted := by
  induction k generalizing s with
  | zero => cases h; rfl
  | succ k ih =>
    obtain ⟨u, hstep, hrest⟩ := runSteps_succ_next h
    obtain ⟨x, rest, hp, -⟩ := step_next_input hstep
    obtain ⟨hx, hru⟩ := hr.step hp hstep
    obtain ⟨hmuted, -⟩ := muteWritesCarryEvents s u x rest hp hx hstep
    rw [ih hru hrest, hmuted, eventTrace_succ hstep, lastMute_append, Option.getD_or]

/-- A run without reset that halts a running block commands MUTE(1) last: the step that halts does, and the steps after
it command nothing (R190). -/
theorem runSteps_lastMute_of_halts (hrun : s.halted = false) (hr : NoResetIn k s) (h : runSteps k s = .next t)
    (hh : t.halted = true) : lastMute (eventTrace k s) = some true := by
  induction k generalizing s with
  | zero =>
    cases h
    exact absurd (hrun.symm.trans hh) nofun
  | succ k ih =>
    obtain ⟨u, hstep, hrest⟩ := runSteps_succ_next h
    obtain ⟨x, rest, hp, -⟩ := step_next_input hstep
    obtain ⟨hx, hru⟩ := hr.step hp hstep
    rw [eventTrace_succ hstep, lastMute_append]
    cases hu : u.halted with
    | true =>
      rw [eventTrace_halted hu hru]
      exact (step_effect hp hx hstep).lastMute_of_halts hrun hu
    | false => rw [ih hu hru hrest, Option.some_or]

end

/-- Settles O46: a reset leaves the block running and muted. -/
theorem lastMuteOfAHaltedRun : Obligations.LastMuteOfAHaltedRun :=
  fun _ _ _ _ _ _ hr h => ⟨runSteps_lastMute_of_halts rfl hr h, runSteps_muted hr h⟩

end Sys2Proof.Machine
end

section
/-! PROOFS. The control-loop tick, which is a classify cycle and then a state-machine step (R180), and the register read
(R40, R187). -/

namespace Sys2Proof.Machine

/-! ## The tick (R180) -/

/-- In SPINUP the busy level of a state-machine step is not read (R141 to R143). -/
theorem asmStep_eq_of_spinup (b c : Bool) {s : State} (hs : s.state = .spinup) : asmStep b s = asmStep c s := by
  simp only [asmStep, hs]

/-- On a running block outside SPINUP, the state-machine step of a tick is the ASM that follows its classify cycle
(R180). -/
theorem exec_asm_classify {s : State} (hrun : s.halted = false) (hs : s.state ≠ .spinup) (v : Option BusSample) :
    exec (.asm (classify v s).busy) (classify v s) = .next (whenRunning (tickStep v) s) := by
  rw [exec_asm_running ((classify_halted v s).trans hrun), whenRunning_running _ hrun, tickStep_looping v hs]

/-- Settles O37: each half of the tick is what the command of its own does. -/
theorem tickClassifiesThenDrives : Obligations.TickClassifiesThenDrives := by
  refine ⟨rfl, fun k a => ?_, fun s hrun => ⟨fun hs => ?_, fun hs => ?_⟩⟩
  · rw [encode_tickS, sampledWord, toNat_append_eq_add]
    cases k <;> rfl
  · have hclassify : ∀ v, whenRunning (classify v) s = classify v s := fun v => whenRunning_running _ hrun
    exact ⟨⟨_, _, congrArg Host.Outcome.next (hclassify none), exec_asm_classify hrun hs none, rfl⟩,
      fun k a => ⟨_, _, congrArg Host.Outcome.next (hclassify _), exec_asm_classify hrun hs _, rfl⟩⟩
  · have htick : ∀ v, whenRunning (tickStep v) s = asmStep false s := fun v =>
      (whenRunning_running _ hrun).trans (tickStep_spinup v hs)
    exact ⟨asmStep false s, fun b => (exec_asm_running hrun b).trans (congrArg _ (asmStep_eq_of_spinup b false hs)),
      congrArg _ (htick _), fun k a => congrArg _ (htick _)⟩

/-- Settles O38: the sample fires the counter, and BUSY then drives the transition to ACCESS. -/
theorem tickFiringReachesAccess : Obligations.TickFiringReachesAccess := by
  intro s k hrun hinv hw hs hhold hok hgap hcount
  have hfires : classify (some { kind := k, addr := s.cfg.dataPort }) s =
      { s with dcnt := 0, last := s.side.now, busy := true } := by
    rw [classify_dataPort_eq hinv hw, countBefore, if_neg hgap, if_neg hgap, hcount, if_pos (Nat.lt_succ_self _),
      decide_eq_true (Nat.lt_succ_self _)]
  have hlooping : s.state ≠ .spinup := hs ▸ nofun
  rw [exec_eq_next, execState, whenRunning_running _ hrun, tickStep_looping _ hlooping, hfires]
  exact congrArg _ (asmStep_transition (cur := .idle) (b := true) hs nofun (.inl hhold) hok)

/-- A tick only appends events (R180). -/
theorem tickStep_events_append (v : Option BusSample) (s : State) : ∃ es, (tickStep v s).events = s.events ++ es := by
  by_cases hs : s.state = .spinup
  · rw [tickStep_spinup v hs]
    exact (asmStep_effect false s).frame.2
  · rw [tickStep_looping v hs, ← classify_events v s]
    exact (asmStep_effect _ _).frame.2

/-- The frame of a tick under the HALTED filter (R180, R186). -/
theorem whenRunning_tickStep_frame {s t : State} {v : Option BusSample} (ht : t = whenRunning (tickStep v) s) :
    t = { s with
      dcnt := t.dcnt, scnt := t.scnt, last := t.last, busy := t.busy
      state := t.state, tchg := t.tchg, hold := t.hold, spin := t.spin, muted := t.muted, events := t.events } ∧
    ∃ es, t.events = s.events ++ es := by
  rcases whenRunning_cases (tickStep v) s with ⟨-, e⟩ | ⟨-, e⟩ <;> rw [ht, e]
  · exact ⟨rfl, [], (List.append_nil _).symm⟩
  · refine ⟨?_, tickStep_events_append v s⟩
    obtain ⟨_, _, _, _, _, _, _, _, _, _, hframe⟩ := tickStep_frame v s
    rw [hframe]

/-- Settles O39: each of the two commands is a tick under the HALTED filter. -/
theorem tickFrame : Obligations.TickFrame := by
  intro s t i hi h
  rw [exec_eq_next] at h
  cases h
  rcases hi with rfl | ⟨k, a, rfl⟩
  · exact whenRunning_tickStep_frame (v := none) rfl
  · exact whenRunning_tickStep_frame rfl

/-! ## The register read (R40, R187) -/

theorem toNat_bitWord (b : Bool) : (bitWord b).toNat = b.toNat := by cases b <;> rfl

theorem toNat_stateCode (st : PlaybackState) :
    ((stateCode st).setWidth 32).toNat = (match st with | .spinup => 0 | .idle => 1 | .access => 2) := by
  cases st <;> rfl

/-- CFG_WARN as the number a register read gives (R22). -/
theorem toNat_cfgWarn (c : Cfg) :
    ((cfgWarn c).setWidth 32).toNat = (if c.threshold = 0 then 1 else 0) + (if c.timeout = 0 then 2 else 0) := by
  unfold cfgWarn
  by_cases ht : c.threshold = 0 <;> by_cases ho : c.timeout = 0 <;> simp only [ht, ho] <;> rfl

/-- An index with no row in the table of R40 reads 0 (R187). -/
theorem readRegister_of_not_in_table (s : State) {idx : Index}
    (h : 0x0D < idx.toNat ∧ idx.toNat < 0x10 ∨ 0x14 < idx.toNat) : readRegister s idx = 0 := by
  unfold readRegister
  split
  case h_20 => rfl
  all_goals omega

/-- Settles O43, row by row of R40's table; a register no wider than a word is read zero-extended. -/
theorem rdsReadsTheTable : Obligations.RdsReadsTheTable := by
  refine ⟨fun idx => toNat_append_eq_add (0b0110#4 ++ 0#20) idx, fun s idx => ⟨rfl, ?_⟩⟩
  have hfield {n : Nat} (v : BitVec n) (h : n ≤ 32) : (v.setWidth 32).toNat = v.toNat := BitVec.toNat_setWidth_of_le h
  exact ⟨toNat_stateCode s.state, toNat_bitWord s.busy, hfield s.dcnt (by decide), hfield s.scnt (by decide), rfl, rfl,
    toNat_bitWord s.hold, toNat_bitWord s.spin, toNat_bitWord s.muted, toNat_bitWord s.halted, toNat_bitWord s.faulted,
    hfield s.finfo (by decide), toNat_bitWord s.illegal, toNat_cfgWarn s.cfg, hfield s.cfg.dataPort (by decide),
    hfield s.cfg.statusPort (by decide), hfield s.cfg.threshold (by decide), rfl, rfl, readRegister_of_not_in_table s⟩

end Sys2Proof.Machine
end

section
/-! PROOFS. Exceptions, of a block that has no trap (R210): every command and every presented step completes, SHDN and FLT
are the only ways into the halted state (R216), and every LOG event has the cause its code names (R211). -/

namespace Sys2Proof.Machine

/-! ## Completion (R210, R255) -/

/-- Every step that completes leaves the side inputs as it sampled them (R37). -/
theorem step_next_side {s t : State} {x : PortInput} {rest : List PortInput} (hp : s.pending = x :: rest)
    (h : step s = .next t) : t.side = sampleSide s.params x.side := by
  rcases step_next_cases hp h with ⟨-, e⟩ | ⟨-, -, -, e⟩ | ⟨-, -, i, -, e⟩ <;> rw [e]
  · rfl
  · rcases illegalWord_cases x.cmd (beginStep x { s with pending := rest }) with ⟨-, g⟩ | ⟨-, g⟩ <;> rw [g] <;> rfl
  · obtain ⟨-, -, hside, -⟩ := execState_kept i (beginStep x { s with pending := rest })
    exact hside

/-- Settles O60: no arm of `exec` faults or refuses, and a step that completes keeps what no command writes. -/
theorem everyStepCompletes : Obligations.EveryStepCompletes := by
  refine ⟨fun i s => ⟨_, exec_eq_next i s⟩, fun s x rest hp hinit => ?_⟩
  obtain ⟨t, ht⟩ := exists_step_next hp hinit
  obtain ⟨hpending, hparams, -, hinitialised⟩ := step_next_kept hp ht
  exact ⟨t, ht, hpending, step_next_side hp ht, hparams, hinitialised⟩

/-! ## Entry to the halted state (R216) -/

/-- Of all commands only SHDN and FLT halt a running block (R216). -/
theorem execState_halts {i : Instr} {u : State} (hrun : u.halted = false) (hh : (execState i u).halted = true) :
    i = .shdn ∨ ∃ info, i = .flt info := by
  cases i with
  | shdn => exact .inl rfl
  | flt info => exact .inr ⟨info, rfl⟩
  | nop | rds => exact absurd (hrun.symm.trans hh) nofun
  | cls | clsS | asm | tick | tickS => simp [execState, whenRunning_running _ hrun, hrun] at hh

/-- An illegal word does not halt the block (R185). -/
theorem illegalWord_halted (cmd : Word) (s : State) : (illegalWord cmd s).halted = s.halted := by
  rcases illegalWord_cases cmd s with ⟨-, e⟩ | ⟨-, e⟩ <;> rw [e]

/-- The entry to the halted state in one record (R183, R216). -/
theorem enterHalt_eq (s : State) :
    enterHalt s = { s with muted := true, halted := true, events := s.events ++ [.stop, .mute true] } := by
  simp [enterHalt, State.emit, State.commandMute]

/-- The entry by FLT in one record: what SHDN does, and the report (R184, R216). -/
theorem faultShutdown_eq (info : Info) (s : State) :
    faultShutdown info s = { s with
      muted := true, halted := true, faulted := true, finfo := info
      events := s.events ++ [.stop, .mute true, .log .runtimeFault info] } := by
  simp [faultShutdown, enterHalt_eq, State.emit]

/-- Settles O44: a reset and an illegal word leave the block running, and so does every command but SHDN and FLT. -/
theorem onlyShdnAndFltHalt : Obligations.OnlyShdnAndFltHalt := by
  intro s t h hrun hh
  obtain ⟨x, rest, hp, -⟩ := step_next_input h
  have hrunu : (beginStep x { s with pending := rest }).halted = false := hrun
  refine ⟨fun _ => rfl, x, rest, hp, ?_⟩
  rcases step_next_cases hp h with ⟨-, rfl⟩ | ⟨-, -, -, rfl⟩ | ⟨hr, -, i, hcmd, ht⟩
  · cases hh
  · rw [illegalWord_halted, hrunu] at hh
    cases hh
  · refine ⟨hr, ?_⟩
    rcases execState_halts hrunu (ht ▸ hh) with rfl | ⟨info, rfl⟩ <;>
      rw [execState, whenRunning_running _ hrunu] at ht
    · rw [enterHalt_eq] at ht
      exact .inl ⟨hcmd, by rw [ht]; rfl⟩
    · rw [faultShutdown_eq] at ht
      exact .inr ⟨info, hcmd, by rw [ht]; rfl⟩

/-! ## The causes of LOG events (R211) -/

/-- The cause R211 gives each log code, with the argument it logs, in a step with the command word `cmd` of a block with
these widths, configuration and sampled side inputs. -/
inductive LogCause (p : Params) (c : Cfg) (side : SideInputs) (cmd : Word) : LogCode → Info → Prop where
  /-- A sample was asked for, and the library does not have it. -/
  | sampleUnavailable (smp : Sample) (hlib : libOk side smp = false) :
      LogCause p c side cmd .sampleUnavailable (sampleArg smp)
  /-- The configuration has a warning (R22). -/
  | configInvalid (hwarn : cfgWarn c ≠ 0) : LogCause p c side cmd .configInvalid ((cfgWarn c).setWidth 16)
  /-- The word is illegal (R185). -/
  | illegalCommand (hcmd : ∀ i, decode p.wA cmd ≠ .instr i) :
      LogCause p c side cmd .illegalCommand ((opField cmd).setWidth 16)
  /-- The command is an FLT (R184). -/
  | runtimeFault (info : Info) (hcmd : decode p.wA cmd = .instr (.flt info)) : LogCause p c side cmd .runtimeFault info

section

variable {p : Params} {c : Cfg} {side : SideInputs} {cmd : Word} {code : LogCode} {arg : Info}

/-- The log of an unavailable sample has its cause. -/
theorem LogCause.of_eq_unavailable {smp : Sample} (hlib : libOk side smp = false)
    (h : Event.log code arg = unavailable smp) : LogCause p c side cmd code arg := by
  cases h
  exact .sampleUnavailable smp hlib

/-- Asking for a sample logs nothing but that the library does not have it (R141, R143, R148). -/
theorem LogCause.of_mem_playOrUnavailable {smp : Sample} {loop : Bool}
    (h : Event.log code arg ∈ [if libOk side smp then .play smp loop else unavailable smp]) :
    LogCause p c side cmd code arg := by
  rw [List.mem_singleton] at h
  split_ifs at h with hlib
  exact .of_eq_unavailable (Bool.eq_false_iff.mpr hlib) h

/-- The restart rule adds at most the log of an unavailable sample (R148). -/
theorem log_mem_restartOnStop {cur : LoopState} {s : State} (h : Event.log code arg ∈ (restartOnStop cur s).events) :
    Event.log code arg ∈ s.events ∨ LogCause p c s.side cmd code arg := by
  rw [restartOnStop_eq, List.mem_append] at h
  refine h.imp_right fun h => ?_
  split at h
  · cases h
  · exact .of_mem_playOrUnavailable h

@[simp] theorem guardTest_events (s : State) : (guardTest s).events = s.events := by rw [guardTest_eq]
@[simp] theorem guardTest_side (s : State) : (guardTest s).side = s.side := by rw [guardTest_eq]

/-- A state-machine step adds no log but of a configuration warning or an unavailable sample (R141 to R148). -/
theorem log_mem_asmStep {b : Bool} {s : State} (h : Event.log code arg ∈ (asmStep b s).events) :
    Event.log code arg ∈ s.events ∨ LogCause p s.cfg s.side cmd code arg := by
  rcases asmStep_cases b s with ⟨-, -, e⟩ | ⟨-, -, -, e⟩ | ⟨-, -, -, e⟩ | ⟨_, -, -, -, -, e⟩ |
    ⟨_, -, -, -, hlib, e⟩ | ⟨_, -, -, e⟩ <;> rw [e] at h
  · simp only [spinUpStart_eq, List.mem_append] at h
    rcases h with ((h | h) | h) | h
    · exact .inl h
    · split_ifs at h with hwarn
      · cases List.mem_singleton.mp h
        exact .inr (.configInvalid hwarn)
      · cases h
    · cases List.mem_singleton.mp h
    · exact .inr (.of_mem_playOrUnavailable (smp := .spinup) h)
  · exact .inl h
  · rw [spinUpDone_eq, List.mem_append] at h
    exact h.imp_right (.of_mem_playOrUnavailable (smp := .idle))
  · exact .inl (by simpa [takeTransition_eq] using h)
  · have hrestart := log_mem_restartOnStop (p := p) (c := s.cfg) (cmd := cmd) h
    rw [emit_events, emit_side, guardTest_events, guardTest_side, List.mem_append, List.mem_singleton] at hrestart
    exact hrestart.elim (Or.imp_right (.of_eq_unavailable hlib)) .inr
  · simpa using log_mem_restartOnStop (p := p) (c := s.cfg) (cmd := cmd) h

/-- A step without reset adds no log without its cause (R211). -/
theorem CommandEffect.log_mem {u t : State} (he : CommandEffect cmd u t) (h : Event.log code arg ∈ t.events) :
    Event.log code arg ∈ u.events ∨ LogCause u.params u.cfg u.side cmd code arg := by
  cases he with
  | nothing | read => exact .inl h
  | classified i v => exact .inl (classify_events v u ▸ h)
  | shutDown => exact .inl (by simpa using h)
  | driven i b => exact log_mem_asmStep h
  | ticked i v b => simpa using log_mem_asmStep (p := u.params) (cmd := cmd) h
  | illegal hcmd =>
    refine (List.mem_append.mp h).imp_right fun h => ?_
    cases List.mem_singleton.mp h
    exact .illegalCommand hcmd
  | faulted info hcmd =>
    have h : Event.log code arg ∈ u.events ∨ code = .runtimeFault ∧ arg = info := by
      simpa [faultShutdown_eq] using h
    refine h.imp_right ?_
    rintro ⟨rfl, rfl⟩
    exact .runtimeFault _ hcmd

end

/-- Settles O54: a step starts with no event, so each of its logs has its cause; a reset step emits none. -/
theorem logArguments : Obligations.LogArguments := by
  intro s t code arg h hlog
  obtain ⟨x, rest, hp, -⟩ := step_next_input h
  refine ⟨x, rest, hp, ?_⟩
  cases hr : x.reset with
  | true =>
    rw [step_reset_eq hp hr h] at hlog
    cases hlog
  | false =>
    refine ⟨rfl, ?_⟩
    have hcause := ((step_effect hp hr h).log_mem hlog).resolve_left List.not_mem_nil
    cases hcause with
    | sampleUnavailable smp hlib => exact ⟨smp, rfl, (libOk_sampleSide s.params x.side smp).symm.trans hlib⟩
    | configInvalid hwarn => exact ⟨rfl, hwarn⟩
    | illegalCommand hcmd => exact ⟨rfl, (legal_eq_false_iff _ _).mpr hcmd⟩
    | runtimeFault info hcmd => exact hcmd

end Sys2Proof.Machine
end

section
/-! PROOFS. Reset and hazards: a step with reset asserted sets the whole block (R240), every other step keeps the
configuration (R241) and is refused before the first reset (R242), and time differences outlive the wrap of `in.now`
(R252). -/

namespace Sys2Proof.Machine

/-! ## Reset (R240, R241, R242) -/

section

variable {s : State} {x : PortInput} {rest : List PortInput}

/-- A step with reset asserted completes in every state, initialised or halted too (R215, R240). -/
theorem step_of_reset (hp : s.pending = x :: rest) (hr : x.reset = true) :
    step s = .next (resetBlock x { s with pending := rest }) := by
  rw [step_cons hp, cycle_reset _ hr]

/-- Reset latches the configuration inputs as they are, if they fit their ports (R241). -/
theorem resetBlock_cfg_of_inWidths (h : CfgInWidths s.params x.cfgPins) : (resetBlock x s).cfg = x.cfgPins :=
  latchCfg_of_inWidths h

/-- Before the first reset a cycle without reset does nothing, whatever its command word (R242). -/
theorem cycle_beforeFirstReset (hinit : s.initialised = false) (hr : x.reset = false) :
    cycle x s = .refused .beforeFirstReset := by
  simp [cycle, hinit, hr]

end

/-- Settles O14: the step with reset is the latching one, and any other step keeps the configuration. -/
theorem configurationHeldUntilReset : Obligations.ConfigurationHeldUntilReset := by
  intro s t x rest hp h
  obtain ⟨-, -, hkept, -⟩ := step_next_kept hp h
  refine ⟨fun hr hfits => ?_, hkept⟩
  rw [step_reset_eq hp hr h]
  exact resetBlock_cfg_of_inWidths hfits

/-- Settles O9: the step leaves `resetBlock`, which gives every register its reset value. -/
theorem resetAssertedResetsTheBlock : Obligations.ResetAssertedResetsTheBlock :=
  fun _ _ _ hp hr => ⟨_, step_of_reset hp hr, rfl, resetBlock_cfg_of_inWidths⟩

/-- Settles O11: taking the input leaves the mark of the first reset unset. -/
theorem stepBeforeFirstResetRefused : Obligations.StepBeforeFirstResetRefused := by
  intro s x rest hinit hp hr
  rw [step_cons hp]
  exact cycle_beforeFirstReset hinit hr

/-! ## Time differences across the wrap (R252) -/

/-- The 32 bits a time is held in do not show in a time difference: it is taken modulo 2^W_T, which divides 2^32 (R8,
R11). -/
theorem timeSince_add_modEq (s : State) (start : Time) :
    timeSince s start + start.toNat ≡ s.side.now.toNat [MOD 2 ^ s.params.wT] := by
  have hdvd : 2 ^ s.params.wT ∣ 2 ^ 32 := pow_dvd_pow 2 s.params.wT_legal.2
  have hwide : (s.side.now - start).toNat + start.toNat ≡ s.side.now.toNat [MOD 2 ^ 32] := by
    rw [Nat.ModEq, ← BitVec.toNat_add, BitVec.sub_add_cancel, Nat.mod_eq_of_lt s.side.now.isLt]
  exact ((Nat.mod_modEq _ _).add_right _).trans (hwide.of_dvd hdvd)

/-- Times that are the true times modulo 2^W_T differ by the true elapsed time modulo 2^W_T. -/
theorem timeSince_modEq_sub {s : State} {start : Time} {t0 t1 : Nat} (hle : t0 ≤ t1)
    (h0 : start.toNat ≡ t0 [MOD 2 ^ s.params.wT]) (h1 : s.side.now.toNat ≡ t1 [MOD 2 ^ s.params.wT]) :
    timeSince s start ≡ t1 - t0 [MOD 2 ^ s.params.wT] := by
  refine Nat.ModEq.add_right_cancel h0 ?_
  rw [Nat.sub_add_cancel hle]
  exact (timeSince_add_modEq s start).trans h1

/-- Settles O28: the difference and the true elapsed time agree modulo 2^W_T, and both are below it. -/
theorem timeDifferenceIsElapsedTime : Obligations.TimeDifferenceIsElapsedTime := by
  intro s start t0 t1 hle hlt h0 h1
  have hmod : timeSince s start ≡ t1 - t0 [MOD 2 ^ s.params.wT] :=
    timeSince_modEq_sub hle (h0 ▸ Nat.mod_modEq _ _) (h1 ▸ Nat.mod_modEq _ _)
  rw [elapsed_toNat]
  exact hmod.eq_of_lt_of_lt (Nat.mod_lt _ (Nat.two_pow_pos _)) hlt

end Sys2Proof.Machine
end
